-- ==== Sys2Proof/Word.lean ====
section
/-! DEFINITION. The word types of the part's frames and the plainest arithmetic of its rules. -/

namespace Sys2Proof

/-- One byte of a port frame or a field frame. -/
abbrev Byte := BitVec 8

/-- A two-byte value of a frame, most significant byte first on the wire. -/
abbrev Word := BitVec 16

/-- "clamp to [lo, hi]" (00_scope.md, Arithmetic 4). -/
def clamp (lo hi x : Int) : Int := max lo (min hi x)

/-- Quotient "truncated": rounded toward zero (00_scope.md, Arithmetic 3). -/
def truncDiv (x y : Int) : Int := Int.tdiv x y

/-- "floor" of a quotient; the rules use it on non-negative quotients (00_scope.md, Arithmetic 2). -/
def floorDiv (x y : Int) : Int := x / y

/-- "abs" (00_scope.md, Arithmetic 5). -/
def absVal (x : Int) : Int := max x (-x)

end Sys2Proof
end

