-- ==== Sys2Proof/Config.lean ====
section
/-! DEFINITION. The free values: values that a response carries and the spec does not state.
Nothing in Lean can evaluate them. The first argument is a fresh number drawn from `State.freeCount`,
the second the place in the answer. Log 7. -/

namespace Sys2Proof

/-- A two-byte value of a response that the spec does not state. Log 7. -/
opaque Config.freeWord : Nat → Nat → BitVec 16

end Sys2Proof
end

