-- ==== Sys2Proof/Syntax.lean ====
section
/-! DEFINITION. The names the spec gives (ports, lanes, axles, corners, doors, channels, nodes, claim
sources), the tables indexed by them, and the ONE inductive of commands: a constructor per row of
spec/opcode_table.json with the row's operands. -/

namespace Sys2Proof

variable {α : Type}

/-- The three SPI ports (00_scope.md, Controllers on the module). -/
inductive Port where
  | a
  | b
  | d
deriving DecidableEq, Repr

/-- Every Port, in the spec's order. -/
def Port.all : List Port := [.a, .b, .d]

/-- The two lane controllers. -/
inductive Lane where
  | a
  | b
deriving DecidableEq, Repr

/-- Every Lane, in the spec's order. -/
def Lane.all : List Lane := [.a, .b]

/-- Axles A (front), B (middle), C (rear, driven). -/
inductive Axle where
  | a
  | b
  | c
deriving DecidableEq, Repr

/-- Every Axle, in the spec's order. -/
def Axle.all : List Axle := [.a, .b, .c]

/-- The six air-spring corners, in channel order. -/
inductive Corner where
  | al
  | ar
  | bl
  | br
  | cl
  | cr
deriving DecidableEq, Repr

/-- Every Corner, in the spec's order. -/
def Corner.all : List Corner := [.al, .ar, .bl, .br, .cl, .cr]

/-- Doors 1 to 4. -/
inductive Door where
  | d1
  | d2
  | d3
  | d4
deriving DecidableEq, Repr

/-- Every Door, in the spec's order. -/
def Door.all : List Door := [.d1, .d2, .d3, .d4]

/-- One value per port. -/
structure PerPort (α : Type) where
  a : α
  b : α
  d : α
deriving DecidableEq, Repr

def PerPort.get (t : PerPort α) : Port → α
  | .a => t.a
  | .b => t.b
  | .d => t.d

def PerPort.set (t : PerPort α) (i : Port) (x : α) : PerPort α :=
  match i with
  | .a => { t with a := x }
  | .b => { t with b := x }
  | .d => { t with d := x }

/-- The table whose entry at `i` is `f i`. -/
def PerPort.of (f : Port → α) : PerPort α := ⟨f .a, f .b, f .d⟩

/-- One value per lane. -/
structure PerLane (α : Type) where
  a : α
  b : α
deriving DecidableEq, Repr

def PerLane.get (t : PerLane α) : Lane → α
  | .a => t.a
  | .b => t.b

def PerLane.set (t : PerLane α) (i : Lane) (x : α) : PerLane α :=
  match i with
  | .a => { t with a := x }
  | .b => { t with b := x }

/-- The table whose entry at `i` is `f i`. -/
def PerLane.of (f : Lane → α) : PerLane α := ⟨f .a, f .b⟩

/-- One value per axle. -/
structure PerAxle (α : Type) where
  a : α
  b : α
  c : α
deriving DecidableEq, Repr

def PerAxle.get (t : PerAxle α) : Axle → α
  | .a => t.a
  | .b => t.b
  | .c => t.c

def PerAxle.set (t : PerAxle α) (i : Axle) (x : α) : PerAxle α :=
  match i with
  | .a => { t with a := x }
  | .b => { t with b := x }
  | .c => { t with c := x }

/-- The table whose entry at `i` is `f i`. -/
def PerAxle.of (f : Axle → α) : PerAxle α := ⟨f .a, f .b, f .c⟩

/-- One value per corner. -/
structure PerCorner (α : Type) where
  al : α
  ar : α
  bl : α
  br : α
  cl : α
  cr : α
deriving DecidableEq, Repr

def PerCorner.get (t : PerCorner α) : Corner → α
  | .al => t.al
  | .ar => t.ar
  | .bl => t.bl
  | .br => t.br
  | .cl => t.cl
  | .cr => t.cr

def PerCorner.set (t : PerCorner α) (i : Corner) (x : α) : PerCorner α :=
  match i with
  | .al => { t with al := x }
  | .ar => { t with ar := x }
  | .bl => { t with bl := x }
  | .br => { t with br := x }
  | .cl => { t with cl := x }
  | .cr => { t with cr := x }

/-- The table whose entry at `i` is `f i`. -/
def PerCorner.of (f : Corner → α) : PerCorner α := ⟨f .al, f .ar, f .bl, f .br, f .cl, f .cr⟩

/-- One value per door. -/
structure PerDoor (α : Type) where
  d1 : α
  d2 : α
  d3 : α
  d4 : α
deriving DecidableEq, Repr

def PerDoor.get (t : PerDoor α) : Door → α
  | .d1 => t.d1
  | .d2 => t.d2
  | .d3 => t.d3
  | .d4 => t.d4

def PerDoor.set (t : PerDoor α) (i : Door) (x : α) : PerDoor α :=
  match i with
  | .d1 => { t with d1 := x }
  | .d2 => { t with d2 := x }
  | .d3 => { t with d3 := x }
  | .d4 => { t with d4 := x }

/-- The table whose entry at `i` is `f i`. -/
def PerDoor.of (f : Door → α) : PerDoor α := ⟨f .d1, f .d2, f .d3, f .d4⟩

/-- The fifteen channels (R1). -/
inductive Channel where
  | brk (x : Axle)
  | str
  | jnt
  | lvl (k : Corner)
  | drel (n : Door)
deriving DecidableEq, Repr

/-- The eleven field nodes, channels 0 to 10 (R1, R43). -/
inductive Node where
  | brk (x : Axle)
  | str
  | jnt
  | lvl (k : Corner)
deriving DecidableEq, Repr

/-- Channels 0 to 14, ascending (R1). -/
def Channel.all : List Channel :=
  [.brk .a, .brk .b, .brk .c, .str, .jnt, .lvl .al, .lvl .ar, .lvl .bl, .lvl .br, .lvl .cl, .lvl .cr,
   .drel .d1, .drel .d2, .drel .d3, .drel .d4]

/-- Nodes of channels 0 to 10, ascending (R43). -/
def Node.all : List Node :=
  [.brk .a, .brk .b, .brk .c, .str, .jnt, .lvl .al, .lvl .ar, .lvl .bl, .lvl .br, .lvl .cl, .lvl .cr]

/-- The channel a node serves (R1). -/
def Node.channel : Node → Channel
  | .brk x => .brk x
  | .str => .str
  | .jnt => .jnt
  | .lvl k => .lvl k

/-- One value per channel. -/
structure PerChannel (α : Type) where
  brk : PerAxle α
  str : α
  jnt : α
  lvl : PerCorner α
  drel : PerDoor α
deriving DecidableEq, Repr

def PerChannel.get (t : PerChannel α) : Channel → α
  | .brk x => t.brk.get x
  | .str => t.str
  | .jnt => t.jnt
  | .lvl k => t.lvl.get k
  | .drel n => t.drel.get n

def PerChannel.set (t : PerChannel α) (c : Channel) (v : α) : PerChannel α :=
  match c with
  | .brk x => { t with brk := t.brk.set x v }
  | .str => { t with str := v }
  | .jnt => { t with jnt := v }
  | .lvl k => { t with lvl := t.lvl.set k v }
  | .drel n => { t with drel := t.drel.set n v }

def PerChannel.of (f : Channel → α) : PerChannel α :=
  ⟨.of fun x => f (.brk x), f .str, f .jnt, .of fun k => f (.lvl k), .of fun n => f (.drel n)⟩

/-- One value per field node. -/
structure PerNode (α : Type) where
  brk : PerAxle α
  str : α
  jnt : α
  lvl : PerCorner α
deriving DecidableEq, Repr

def PerNode.get (t : PerNode α) : Node → α
  | .brk x => t.brk.get x
  | .str => t.str
  | .jnt => t.jnt
  | .lvl k => t.lvl.get k

def PerNode.set (t : PerNode α) (n : Node) (v : α) : PerNode α :=
  match n with
  | .brk x => { t with brk := t.brk.set x v }
  | .str => { t with str := v }
  | .jnt => { t with jnt := v }
  | .lvl k => { t with lvl := t.lvl.set k v }

def PerNode.of (f : Node → α) : PerNode α :=
  ⟨.of fun x => f (.brk x), f .str, f .jnt, .of fun k => f (.lvl k)⟩

/-- The fixed entries of the Interlock Condition Table (R145). -/
inductive FixedEntry where
  | f0
  | f1
  | f2
  | f3
deriving DecidableEq, Repr

/-- The sixteen entries, F0 to F3 and P0 to P11 (R144). -/
inductive Entry where
  | fixed (f : FixedEntry)
  | prog (k : Fin 12)
deriving DecidableEq, Repr

/-- The entries in entry order, F0 to F3 and then P0 to P11 (R149). -/
def Entry.all : List Entry :=
  [.fixed .f0, .fixed .f1, .fixed .f2, .fixed .f3, .prog 0, .prog 1, .prog 2, .prog 3, .prog 4, .prog 5,
   .prog 6, .prog 7, .prog 8, .prog 9, .prog 10, .prog 11]

/-- The claim sources (R4). -/
inductive Source where
  | safe
  | emerg
  | centre
  | entry (e : Entry)
  | doorHalt
  | doorKneel
  | doorOpen (n : Door)
  | joint
  | lane
deriving DecidableEq, Repr

/-- The kinds of miss of a transaction (R45); also the failure kinds of an acknowledge but for CODE (R55). -/
inductive MissKind where
  | silent
  | corrupt
  | wrongAddress
deriving DecidableEq, Repr

/-- The two pairing windows (R175). -/
inductive Window where
  | standby
  | warmReset
deriving DecidableEq, Repr

/-- The commands: one constructor per row of spec/opcode_table.json, in the table's order.
A request carries its port `p`, its reserved byte 10 `r` and its payload as R189 gives it. -/
inductive Instr where
  | nop (p : Port) (r : Byte)
  | readNotice (p : Port) (r : Byte)
  | readClaim (p : Port) (r : Byte) (channel index : Byte)
  | readState (p : Port) (r : Byte) (selector page : Byte)
  | setpoint (p : Port) (r : Byte) (demand : Word) (emergency : Byte) (angle : Word) (steer level : Byte)
  | configWrite (p : Port) (r : Byte) (item v0 v1 v2 : Byte)
  | configRead (p : Port) (r : Byte) (item : Byte)
  | enterRun (p : Port) (r : Byte) (digest : Word)
  | modeRequest (p : Port) (r : Byte) (mode : Byte)
  | recover (p : Port) (r : Byte)
  | ackCapture (p : Port) (r : Byte)
  | readCapture (p : Port) (r : Byte) (group : Byte)
  | readFaults (p : Port) (r : Byte) (group : Byte)
  | clearFault (p : Port) (r : Byte) (kinds : BitVec 24)
  | warmReset (p : Port) (r : Byte)
  | testField (p : Port) (r : Byte) (node : Byte) (pattern : Word) (count : Byte)
  | doorStatus (p : Port) (r : Byte) (reports : PerDoor Byte)
  | doorOpen (p : Port) (r : Byte) (door : Byte)
  | doorClose (p : Port) (r : Byte) (door : Byte)
  | haltOn (p : Port) (r : Byte)
  | haltOff (p : Port) (r : Byte)
  | kneelOn (p : Port) (r : Byte)
  | kneelOff (p : Port) (r : Byte)
  | badFrame (p : Port) (clocks : Nat) (first : Byte)
  | rstnWarmReset
  | powerOnReset
  | initialisationComplete
  | laneStage1Expiry (l : Lane)
  | laneStage2Expiry (l : Lane)
  | holdLimitExpiry (c : Channel) (src : Source)
  | fieldCycleExpiry
  | fieldResponseReceived (code : Fin 8) (m1 m2 : Word)
  | responseWindowEnd (k : MissKind)
  | shutdownAckReceived (code : Fin 8)
  | tAckExpiry (k : MissKind)
  | settleTimerExpiry
  | persistenceTimerExpiry (k : Corner)
  | valveRunTimerExpiry (k : Corner)
  | kneelTimerExpiry
  | contactSample (closed : PerDoor Bool)
  | doorStalenessExpiry
  | doorDisagreeExpiry (n : Door)
  | pairingWindowExpiry (w : Window)
  | readyMarkLapse (l : Lane)
  | csnFallingEdge (p : Port)
  | unknownKindFrame (p : Port) (kind : Byte)
deriving DecidableEq, Repr

end Sys2Proof
end

