-- ==== Sys2Proof/Machine/Kinds.lean ====
section
/-! DEFINITION. The enumerations of the chapters, and the code that each member has in responses,
notices and configuration items. -/

namespace Sys2Proof.Machine

/-- The seven modes (R173). -/
inductive Mode where
  | powerup
  | config
  | service
  | run
  | degraded
  | safeStop
  | standby
deriving DecidableEq, Repr

/-- The mode codes of the flag byte (12.1). -/
def Mode.code : Mode → Nat
  | .powerup => 0
  | .config => 1
  | .service => 2
  | .run => 3
  | .degraded => 4
  | .safeStop => 5
  | .standby => 6

/-- The mode a code names (R174). -/
def Mode.ofCode : Nat → Option Mode
  | 0 => some .powerup
  | 1 => some .config
  | 2 => some .service
  | 3 => some .run
  | 4 => some .degraded
  | 5 => some .safeStop
  | 6 => some .standby
  | _ => none

/-- The operating modes are RUN, DEGRADED and SAFE_STOP (00_scope.md, Levels and names 5). -/
def Mode.operating : Mode → Bool
  | .run | .degraded | .safeStop => true
  | _ => false

/-- The results of a request (R188). -/
inductive Result where
  | ok
  | refusedState
  | refusedPort
  | refusedArg
  | refusedLocked
  | refusedDigest
  | badFrame
  | unknownKind
  | noData
deriving DecidableEq, Repr

/-- The result codes (R188). -/
def Result.code : Result → Nat
  | .ok => 0
  | .refusedState => 1
  | .refusedPort => 2
  | .refusedArg => 3
  | .refusedLocked => 4
  | .refusedDigest => 5
  | .badFrame => 6
  | .unknownKind => 7
  | .noData => 8

/-- The 21 fault kinds (10.1). -/
inductive FaultKind where
  | laneStale
  | laneLost
  | bothLanesLost
  | laneDisagree
  | linkFrame
  | fieldMiss
  | nodeLost
  | nodeCode
  | nodeSensor
  | nodeActuator
  | followError
  | brakeSaturated
  | brakeCapacity
  | speedUnknown
  | articLimit
  | levelTimeout
  | kneelTimeout
  | doorDisagree
  | doorLinkStale
  | selfTestFail
  | shutdownAckMissing
deriving DecidableEq, Repr

/-- The fault kinds in ascending number. -/
def FaultKind.all : List FaultKind :=
  [.laneStale, .laneLost, .bothLanesLost, .laneDisagree, .linkFrame, .fieldMiss, .nodeLost, .nodeCode,
   .nodeSensor, .nodeActuator, .followError, .brakeSaturated, .brakeCapacity, .speedUnknown, .articLimit,
   .levelTimeout, .kneelTimeout, .doorDisagree, .doorLinkStale, .selfTestFail, .shutdownAckMissing]

/-- The number of a fault kind (10.1). -/
def FaultKind.no : FaultKind → Nat
  | .laneStale => 0
  | .laneLost => 1
  | .bothLanesLost => 2
  | .laneDisagree => 3
  | .linkFrame => 4
  | .fieldMiss => 5
  | .nodeLost => 6
  | .nodeCode => 7
  | .nodeSensor => 8
  | .nodeActuator => 9
  | .followError => 10
  | .brakeSaturated => 11
  | .brakeCapacity => 12
  | .speedUnknown => 13
  | .articLimit => 14
  | .levelTimeout => 15
  | .kneelTimeout => 16
  | .doorDisagree => 17
  | .doorLinkStale => 18
  | .selfTestFail => 19
  | .shutdownAckMissing => 20

/-- The severities (R157). -/
inductive Severity where
  | correctable
  | degrade
  | fatal
deriving DecidableEq, Repr

/-- Severity codes (11.6, note 4). -/
def Severity.code : Severity → Nat
  | .correctable => 0
  | .degrade => 1
  | .fatal => 2

/-- A stored severity; a value that names none of the three is FATAL (R157). -/
def Severity.ofCode : Int → Severity
  | 0 => .correctable
  | 1 => .degrade
  | _ => .fatal

/-- The sources of detections (R156). -/
inductive FaultSource where
  | port (p : Port)
  | node (n : Node)
  | lv
  | flc
  | mru
  | bau
  | sju
  | lku
  | dsv
deriving DecidableEq, Repr

/-- The number of a channel (R1). -/
def chanNo : Channel → Nat
  | .brk .a => 0
  | .brk .b => 1
  | .brk .c => 2
  | .str => 3
  | .jnt => 4
  | .lvl .al => 5
  | .lvl .ar => 6
  | .lvl .bl => 7
  | .lvl .br => 8
  | .lvl .cl => 9
  | .lvl .cr => 10
  | .drel .d1 => 11
  | .drel .d2 => 12
  | .drel .d3 => 13
  | .drel .d4 => 14

/-- The channel number of a node (R43). -/
def nodeNo (n : Node) : Nat := chanNo n.channel

/-- The port codes of the fault sources (12.4). -/
def portSourceCode : Port → Nat
  | .a => 20
  | .b => 21
  | .d => 22

/-- Fault source codes (12.4). -/
def FaultSource.code : FaultSource → Nat
  | .node n => nodeNo n
  | .port p => portSourceCode p
  | .lv => 30
  | .flc => 31
  | .mru => 32
  | .bau => 33
  | .sju => 34
  | .lku => 35
  | .dsv => 36

/-- Claim source codes (R4). -/
def sourceCode : Source → Nat
  | .safe => 1
  | .emerg => 2
  | .centre => 3
  | .entry (.fixed .f0) => 4
  | .entry (.fixed .f1) => 5
  | .entry (.fixed .f2) => 6
  | .entry (.fixed .f3) => 7
  | .entry (.prog k) => 8 + k.val
  | .doorHalt => 20
  | .doorKneel => 21
  | .doorOpen .d1 => 22
  | .doorOpen .d2 => 23
  | .doorOpen .d3 => 24
  | .doorOpen .d4 => 25
  | .joint => 26
  | .lane => 27

/-- "Code 0 names no source. It is reported as the holder of an empty list." (R4). -/
def holderCode : Option Source → Nat
  | none => 0
  | some s => sourceCode s

/-- The claim kinds (R4). -/
inductive ClaimKind where
  | standing
  | oneShot
  | condition
deriving DecidableEq, Repr

/-- The claim kind each source always uses (R4). -/
def claimKind : Source → ClaimKind
  | .entry _ => .condition
  | .doorKneel | .doorOpen _ => .oneShot
  | _ => .standing

/-- Claim kind codes (R190). -/
def ClaimKind.code : ClaimKind → Nat
  | .standing => 0
  | .oneShot => 1
  | .condition => 2

/-- The door sources (1.2, note 2). -/
def isDoorSource : Source → Bool
  | .doorHalt | .doorKneel | .doorOpen _ => true
  | _ => false

/-- A setpoint of a channel (R1). -/
inductive Setpoint where
  | num (n : Int)
  | holdPresent
  | off
  | on
deriving DecidableEq, Repr

/-- Lane freshness (2.3). -/
inductive Freshness where
  | fresh
  | stale
  | lost
deriving DecidableEq, Repr

def Freshness.code : Freshness → Nat
  | .fresh => 0
  | .stale => 1
  | .lost => 2

/-- Steer modes (R25). -/
inductive SteerMode where
  | active
  | centre
deriving DecidableEq, Repr

def SteerMode.code : SteerMode → Nat
  | .active => 0
  | .centre => 1

/-- "a value naming no steer mode stored as CENTRE" (R25). -/
def SteerMode.ofCode : Nat → SteerMode
  | 0 => .active
  | _ => .centre

/-- Level modes (R25). -/
inductive LevelMode where
  | normal
  | high
  | low
deriving DecidableEq, Repr

def LevelMode.code : LevelMode → Nat
  | .normal => 0
  | .high => 1
  | .low => 2

/-- "a value naming no level mode stored as NORMAL" (R25). -/
def LevelMode.ofCode : Nat → LevelMode
  | 1 => .high
  | 2 => .low
  | _ => .normal

/-- The basis of the voted record (R34). -/
inductive Basis where
  | both
  | aOnly
  | bOnly
  | held
deriving DecidableEq, Repr

def Basis.code : Basis → Nat
  | .both => 0
  | .aOnly => 1
  | .bOnly => 2
  | .held => 3

/-- Node states (3.5). -/
inductive NodeState where
  | unpolled
  | active
  | lost
deriving DecidableEq, Repr

def NodeState.code : NodeState → Nat
  | .unpolled => 0
  | .active => 1
  | .lost => 2

/-- Command kinds of the field link (3.4). -/
inductive CmdKind where
  | set
  | echo
  | shutdown
deriving DecidableEq, Repr

/-- "command kind: 01h SET, 02h ECHO, 03h SHUTDOWN" (3.4). -/
def CmdKind.code : CmdKind → Nat
  | .set => 1
  | .echo => 2
  | .shutdown => 3

/-- Codes of the miss kinds in log items, in the order of R45 (Log 14). -/
def missCode : MissKind → Nat
  | .silent => 0
  | .corrupt => 1
  | .wrongAddress => 2

/-- Self-test results (R58). -/
inductive TestResult where
  | none
  | running
  | pass
  | fail
  | aborted
deriving DecidableEq, Repr

def TestResult.code : TestResult → Nat
  | .none => 0
  | .running => 1
  | .pass => 2
  | .fail => 3
  | .aborted => 4

/-- Valve states, which are also the valve commands (7.3, 3.4). -/
inductive Valve where
  | hold
  | fill
  | exhaust
deriving DecidableEq, Repr

/-- "level valve command 0 HOLD, 1 FILL, 2 EXHAUST" (3.4). -/
def Valve.code : Valve → Nat
  | .hold => 0
  | .fill => 1
  | .exhaust => 2

/-- Directions of the persistence timer (R115). -/
inductive Dir where
  | low
  | high
deriving DecidableEq, Repr

/-- "persistence direction (0 stopped, 1 LOW, 2 HIGH)" (R190). -/
def Dir.code : Dir → Nat
  | .low => 1
  | .high => 2

/-- Kneel states (7.4). -/
inductive KneelState where
  | normal
  | lowering
  | kneeled
  | raising
deriving DecidableEq, Repr

def KneelState.code : KneelState → Nat
  | .normal => 0
  | .lowering => 1
  | .kneeled => 2
  | .raising => 3

/-- Door reports (R131). -/
inductive DoorReport where
  | closedLocked
  | closed
  | opened
  | obstructed
  | unknown
deriving DecidableEq, Repr

/-- "CLOSED_LOCKED 0, CLOSED 1, OPEN 2, OBSTRUCTED 3, UNKNOWN 4" (R189). -/
def DoorReport.code : DoorReport → Nat
  | .closedLocked => 0
  | .closed => 1
  | .opened => 2
  | .obstructed => 3
  | .unknown => 4

/-- "a value that names none of the five reports is stored as UNKNOWN" (R131). -/
def DoorReport.ofCode : Nat → DoorReport
  | 0 => .closedLocked
  | 1 => .closed
  | 2 => .opened
  | 3 => .obstructed
  | _ => .unknown

/-- Reset causes (R184, R185). -/
inductive Cause where
  | pin
  | request
  | power
deriving DecidableEq, Repr

/-- "cause (PIN 0, REQUEST 1, POWER 2)" (R190). -/
def Cause.code : Cause → Nat
  | .pin => 0
  | .request => 1
  | .power => 2

/-- Watched quantities (R144). -/
inductive Watched where
  | speed
  | atRest
  | articAbs
  | doorsUnsecured
  | kneelNotNormal
  | brakeDemand
  | emerg
deriving DecidableEq, Repr

/-- Enumerations are numbered in the order their chapters list them (11.6, note 4). -/
def Watched.ofCode : Int → Watched
  | 1 => .atRest
  | 2 => .articAbs
  | 3 => .doorsUnsecured
  | 4 => .kneelNotNormal
  | 5 => .brakeDemand
  | 6 => .emerg
  | _ => .speed

/-- Comparisons (R144). -/
inductive Comparison where
  | above
  | below
  | any
  | none
deriving DecidableEq, Repr

def Comparison.ofCode : Int → Comparison
  | 1 => .below
  | 2 => .any
  | 3 => .none
  | _ => .above

/-- Setpoint kinds of an entry (R144). -/
inductive SpKind where
  | halt
  | off
  | centre
  | followBase
  | holdPresent
  | value (n : Int)
deriving DecidableEq, Repr

/-- Item kinds of the log entry (R161). -/
inductive ItemKind where
  | laneSetpoint
  | fieldCommand
  | nodeResponse
  | doorReport
  | portFrame
  | unitRecord
  | selfTest
deriving DecidableEq, Repr

def ItemKind.code : ItemKind → Nat
  | .laneSetpoint => 0
  | .fieldCommand => 1
  | .nodeResponse => 2
  | .doorReport => 3
  | .portFrame => 4
  | .unitRecord => 5
  | .selfTest => 6

/-- The item kind that each fault kind carries (R161). -/
def FaultKind.itemKind : FaultKind → ItemKind
  | .laneStale | .laneLost | .bothLanesLost | .laneDisagree => .laneSetpoint
  | .fieldMiss | .nodeLost | .shutdownAckMissing => .fieldCommand
  | .nodeCode | .nodeSensor | .nodeActuator | .followError => .nodeResponse
  | .doorDisagree | .doorLinkStale => .doorReport
  | .linkFrame => .portFrame
  | .brakeSaturated | .brakeCapacity | .speedUnknown | .articLimit | .levelTimeout | .kneelTimeout => .unitRecord
  | .selfTestFail => .selfTest

/-- The lane behind a port, if any (R24). -/
def laneOf : Port → Option Lane
  | .a => some .a
  | .b => some .b
  | .d => none

/-- The port of a lane (R24). -/
def lanePort : Lane → Port
  | .a => .a
  | .b => .b

/-- The other lane. -/
def otherLane : Lane → Lane
  | .a => .b
  | .b => .a

def cornerAxle : Corner → Axle
  | .al | .ar => .a
  | .bl | .br => .b
  | .cl | .cr => .c

def axleLeft : Axle → Corner
  | .a => .al
  | .b => .bl
  | .c => .cl

def axleRight : Axle → Corner
  | .a => .ar
  | .b => .br
  | .c => .cr

/-- Corners of one-byte sets: "bit k for corner k (AL 0 to CR 5)" (R189). -/
def cornerNo : Corner → Nat
  | .al => 0
  | .ar => 1
  | .bl => 2
  | .br => 3
  | .cl => 4
  | .cr => 5

def axleNo : Axle → Nat
  | .a => 0
  | .b => 1
  | .c => 2

/-- The number n of door n. -/
def doorNo : Door → Nat
  | .d1 => 1
  | .d2 => 2
  | .d3 => 3
  | .d4 => 4

/-- The door a number names. -/
def doorOfNo : Nat → Option Door
  | 1 => some .d1
  | 2 => some .d2
  | 3 => some .d3
  | 4 => some .d4
  | _ => none

/-- The channel a number names (R23). -/
def channelOfNo (n : Nat) : Option Channel := Channel.all[n]?

/-- The node a channel number names (R57). -/
def nodeOfNo (n : Nat) : Option Node := Node.all[n]?

/-- The corner whose channel number is 5 + k. -/
def cornerOfNo (n : Nat) : Option Corner := Corner.all[n]?

/-- The bit of an entry in the truth and armed sets: "bits 0 to 3 F0 to F3, bits 4 to 15 P0 to P11" (R190). -/
def entryBit : Entry → Nat
  | .fixed .f0 => 0
  | .fixed .f1 => 1
  | .fixed .f2 => 2
  | .fixed .f3 => 3
  | .prog k => 4 + k.val

end Sys2Proof.Machine
end

