-- ==== Sys2Proof/Machine/Bits.lean ====
section
/-! DEFINITION. Bytes, packed values and the three CRCs of the part. -/

namespace Sys2Proof.Machine

/-- One byte of a response. -/
def byte (n : Nat) : Byte := BitVec.ofNat 8 n

/-- A flag takes one byte (R189). -/
def flag (b : Bool) : Byte := if b then 1 else 0

/-- A two-byte value, most significant byte first (12.1). -/
def word (n : Nat) : List Byte := [byte (n / 256), byte n]

/-- A two-byte two's complement value, most significant byte first (12.1). -/
def wordInt (x : Int) : List Byte := word (BitVec.ofInt 16 x).toNat

/-- A three-byte set, most significant byte first (R189). -/
def set3 (n : Nat) : List Byte := [byte (n / 65536), byte (n / 256), byte n]

/-- The signed reading of a two-byte value. -/
def signed (w : Word) : Int := w.toInt

/-- The first eight bytes, 00h beyond the list: "unused bytes 00h" (12.1). -/
def pad8 (l : List Byte) : List Byte := (l ++ List.replicate 8 0).take 8

/-- The FFFFh of a stopped or absent timer, else the remaining ms held at FFFDh (R189). -/
def timerWord : Option Nat → List Byte
  | none => word 65535
  | some n => word (min n 65533)

/-- A one-byte none is FFh (R189). -/
def byteOr : Option Nat → Byte
  | none => 255
  | some n => byte n

/-- A one-byte set of doors: "doors take bit n - 1 for door n" (R189). -/
def doorSet (t : PerDoor Bool) : Byte :=
  byte (t.d1.toNat + 2 * t.d2.toNat + 4 * t.d3.toNat + 8 * t.d4.toNat)

/-- A one-byte set of corners: bit k for corner k (R189). -/
def cornerSet (t : PerCorner Bool) : Byte :=
  byte (t.al.toNat + 2 * t.ar.toNat + 4 * t.bl.toNat + 8 * t.br.toNat + 16 * t.cl.toNat + 32 * t.cr.toNat)

/-- A one-byte set of axles: bit 0 A, bit 1 B and bit 2 C (R189). -/
def axleSet (t : PerAxle Bool) : Byte :=
  byte (t.a.toNat + 2 * t.b.toNat + 4 * t.c.toNat)

/-- One bit of a CRC register of width `w`: shift out the top bit, and fold the polynomial in when it was set. -/
def crcStep {w : Nat} (poly r : BitVec w) : BitVec w :=
  if r.msb then (r <<< 1) ^^^ poly else r <<< 1

/-- Eight bits, most significant first. -/
def crcByte {w : Nat} (poly r : BitVec w) : BitVec w :=
  crcStep poly (crcStep poly (crcStep poly (crcStep poly (crcStep poly (crcStep poly (crcStep poly (crcStep poly r)))))))

/-- CRC-8 without the final XOR. -/
def crc8 (poly init : Byte) (l : List Byte) : Byte :=
  l.foldl (fun r b => crcByte poly (r ^^^ b)) init

/-- "The CRC-8 of a port frame uses polynomial 2Fh, initial value FFh and final XOR FFh" (R186). -/
def portCrc (l : List Byte) : Byte := crc8 0x2F 0xFF l ^^^ 0xFF

/-- "The CRC-8 of the field link ... uses polynomial 07h, initial value 00h and no final inversion" (R45). -/
def fieldCrc (l : List Byte) : Byte := crc8 0x07 0x00 l

/-- One byte into the CRC-16 of polynomial 1021h (R181). -/
def crc16Byte (r : BitVec 16) (b : Byte) : BitVec 16 :=
  crcByte 0x1021 (r ^^^ (b.setWidth 16 <<< 8))

/-- The CRC-16 register over the bytes. The register is matched on at each byte, which makes it a numeral at once. -/
def crc16Go : List Byte → Nat → BitVec 16
  | [], r => BitVec.ofNat 16 r
  | b :: l, r =>
    match (crc16Byte (BitVec.ofNat 16 r) b).toNat with
    | 0 => crc16Go l 0
    | n + 1 => crc16Go l (n + 1)

/-- "The CRC-16 uses polynomial 1021h and initial value FFFFh" with no final inversion (R181). -/
def crc16 (l : List Byte) : BitVec 16 := crc16Go l 0xFFFF

end Sys2Proof.Machine
end

