-- ==== Sys2Proof/WellFormed.lean ====
section
/-! DEFINITION. Which commands can happen: the operands that the spec's own words rule out. -/

namespace Sys2Proof

/-- The kind bytes that name a request (R189). -/
def kindNames (k : Byte) : Bool :=
  [0x00, 0x01, 0x02, 0x03, 0x10, 0x11, 0x12, 0x13, 0x14, 0x15, 0x16, 0x17, 0x18, 0x19, 0x1A, 0x1B, 0x20, 0x21, 0x22,
   0x23, 0x24, 0x25, 0x26].contains k

/-- Whether a source's records carry a hold limit on the channel: only ONE_SHOT records do (R7, R15). -/
def carriesHoldLimit (c : Channel) (src : Source) : Bool :=
  match src, c with
  | .doorKneel, .lvl _ => true
  | .doorOpen n, .drel m => n == m
  | _, _ => false

/-- A frame of fewer than 8 clocks has no first byte, which reads 00h (R186). -/
def frameByteOk (clocks : Nat) (first : Byte) : Bool := 8 ≤ clocks || first == 0

/-- Well-formed commands: a hold limit of a ONE_SHOT source on its channel, a first byte only where one was received,
and an unknown kind that names no request. Every operand of every other command is taken. -/
def Instr.wf : Instr → Bool
  | .holdLimitExpiry c src => carriesHoldLimit c src
  | .badFrame _ clocks first => frameByteOk clocks first
  | .unknownKindFrame _ kind => !kindNames kind
  | _ => true

end Sys2Proof
end

