-- ==== Sys2Proof/Decode.lean ====
section
/-! DEFINITION. From words and frames to commands. The table gives no row any bits, so a table word spells no command;
the frames of chapters 12 and 3 do, and are decoded here. -/

namespace Sys2Proof

open Machine (portCrc fieldCrc byte word)

/-- The command that a word spells by the table's bits: the table gives none (Log 6). -/
def decodeTableWord (_ _ : Nat) : Option Instr := none

/-- Byte `n` of a frame; 00h beyond it. -/
def frameByte (f : List Byte) (n : Nat) : Byte := f.getD n 0

/-- The request that a good frame's kind and payload name (R189). -/
def decodeRequest (p : Port) (f : List Byte) : Instr :=
  let b := frameByte f
  let r := b 10
  match (b 0).toNat with
  | 0x00 => .nop p r
  | 0x01 => .readNotice p r
  | 0x02 => .readClaim p r (b 1) (b 2)
  | 0x03 => .readState p r (b 1) (b 2)
  | 0x10 => .setpoint p r (b 1 ++ b 2) (b 3) (b 4 ++ b 5) (b 6) (b 7)
  | 0x11 => .configWrite p r (b 1) (b 2) (b 3) (b 4)
  | 0x12 => .configRead p r (b 1)
  | 0x13 => .enterRun p r (b 1 ++ b 2)
  | 0x14 => .modeRequest p r (b 1)
  | 0x15 => .recover p r
  | 0x16 => .ackCapture p r
  | 0x17 => .readCapture p r (b 1)
  | 0x18 => .readFaults p r (b 1)
  | 0x19 => .clearFault p r (b 1 ++ b 2 ++ b 3)
  | 0x1A => .warmReset p r
  | 0x1B => .testField p r (b 1) (b 2 ++ b 3) (b 4)
  | 0x20 => .doorStatus p r ⟨b 1, b 2, b 3, b 4⟩
  | 0x21 => .doorOpen p r (b 1)
  | 0x22 => .doorClose p r (b 1)
  | 0x23 => .haltOn p r
  | 0x24 => .haltOff p r
  | 0x25 => .kneelOn p r
  | 0x26 => .kneelOff p r
  | _ => .unknownKindFrame p (b 0)

/-- Whether a frame's last byte is the CRC of the eleven before it (R186). -/
def frameCrcOk (f : List Byte) : Bool := portCrc (f.take 11) == frameByte f 11

/-- The command of one assertion of CSn: `f` holds the whole bytes received, `clocks` the rising SCK edges (R186). -/
def decodeFrame (p : Port) (clocks : Nat) (f : List Byte) : Instr :=
  if clocks = 96 ∧ f.length = 12 ∧ frameCrcOk f = true then decodeRequest p f
  else .badFrame p clocks (frameByte f 0)

/-- The command frame on the field pair: 5Ah, address, kind, value, CRC-8 (3.4). -/
def commandFrame (address kind : Nat) (value : Word) : List Byte :=
  let body := [(0x5A : Byte), byte address, byte kind] ++ word value.toNat
  body ++ [fieldCrc body]

/-- Whether the bytes received begin with a well-formed response, its address apart (R45). The first eight bytes are the
response: "Bytes that arrive after a transaction has ended are discarded." -/
def responseWellFormed (f : List Byte) : Bool :=
  8 ≤ f.length && frameByte f 0 == 0xA6 && fieldCrc (f.take 7) == frameByte f 7 && (frameByte f 2).toNat < 8

/-- The judgement of the bytes `f` that arrived within the window of a command to `address` (R45). -/
def decodeResponse (address : Nat) (f : List Byte) : Instr :=
  if f.isEmpty then .responseWindowEnd .silent
  else if !responseWellFormed f then .responseWindowEnd .corrupt
  else if (frameByte f 1).toNat ≠ address then .responseWindowEnd .wrongAddress
  else .fieldResponseReceived (Fin.ofNat 8 (frameByte f 2).toNat) (frameByte f 3 ++ frameByte f 4)
    (frameByte f 5 ++ frameByte f 6)

/-- The judgement of a good frame in answer to SHUTDOWN, or of its absence at T_ack (R55). -/
def decodeAck (address : Nat) (f : List Byte) : Instr :=
  match decodeResponse address f with
  | .responseWindowEnd k => .tAckExpiry k
  | _ => .shutdownAckReceived (Fin.ofNat 8 (frameByte f 2).toNat)

end Sys2Proof
end

