-- ==== Sys2Proof/Machine/Store.lean ====
section
/-! DEFINITION. The configuration store (R180): items by number, their defaults, ranges and bounds, what a
write stores, the digest (R181), and one reader per item. The store is held as the list of the items that differ
from their defaults, rising by number, so that equal stores are equal data. -/

namespace Sys2Proof.Machine

/-- The store: the items that differ from their defaults. -/
structure Store where
  items : List (Nat × Int)
deriving DecidableEq, Repr

/-- "Numbers 189 and 240 to 255 are unknown items" (11.6, note 7). -/
def itemHeld (n : Nat) : Bool := n < 240 && n != 189

/-- Whether the item is a setpoint kind, whose value takes three bytes (R180). -/
def itemIsKind (n : Nat) : Bool := 80 ≤ n && n < 188 && (n - 80) % 9 == 8

/-- Defaults of the seven items of an axle (5.1): G, U, Lmin, Lmax, N, K, T. -/
def axleDefault : Nat → Int
  | 0 => 256
  | 1 => 150
  | 2 => 400
  | 3 => 1600
  | 4 => 800
  | 5 => 1100
  | _ => 30

/-- Ranges of the seven items of an axle (5.1). -/
def axleRange : Nat → Int × Int
  | 0 => (0, 4095)
  | 1 => (0, 2000)
  | 2 => (100, 2500)
  | 3 => (100, 2500)
  | 4 => (100, 2500)
  | 5 => (1, 65535)
  | _ => (0, 100)

/-- Defaults of items 21 to 36 (5.1, 6.1). -/
def midDefault : Nat → Int
  | 21 => 250
  | 22 => 600
  | 23 => 300
  | 24 => 512
  | 25 => -256
  | 26 => 150
  | 27 => 300
  | 28 => 120
  | 29 => 5
  | 30 => 550
  | 31 => 400
  | 32 => 200
  | 33 => 900
  | 34 => 40
  | 35 => 1
  | _ => 1

/-- Defaults of items 37 to 61 (7.1, 1.5, 8.1, 2.1, 4.1, 3.1). The kneel group is LVL_AR and LVL_BR, bits 6 and 8. -/
def lowDefault : Nat → Int
  | 37 => 60
  | 38 => 30
  | 39 => 300
  | 40 => 8
  | 41 => 3
  | 42 => 20
  | 43 => 320
  | 44 => -70
  | 45 => 6
  | 46 => 5
  | 47 => 5
  | 48 => 4
  | 49 => 10
  | 50 => 200
  | 51 => 2000
  | 52 => 50
  | 53 => 250
  | 54 => 1
  | 55 => 50
  | 56 => 20
  | 57 => 5
  | 58 => 500
  | 59 => 5
  | 60 => 300
  | _ => 3

/-- Defaults of items 73 to 79 (3.1, R4). -/
def highDefault : Nat → Int
  | 73 => 40
  | 74 => 10
  | 75 => 16
  | 76 => 10
  | 77 => 9
  | 78 => 8
  | _ => 4

/-- Defaults of the nine fields of a programmable entry (R144). HOLD_PRESENT is kind code 4. -/
def entryDefault : Nat → Int
  | 7 => 1
  | 8 => 4 * 65536
  | _ => 0

/-- Default severities (10.1), as codes. -/
def severityDefault : Nat → Int
  | 2 | 12 => 2
  | 1 | 3 | 6 | 8 | 9 | 10 | 13 | 14 | 15 | 16 | 18 => 1
  | _ => 0

/-- Default routing (R191): bit 0 A, bit 1 B, bit 2 D. -/
def routingDefault : Nat → Int
  | 0 => 7
  | 3 | 4 | 5 | 6 => 4
  | _ => 3

/-- The default of an item (R180, with the owning chapters). -/
def itemDefault (n : Nat) : Int :=
  if n < 21 then axleDefault (n % 7)
  else if n < 37 then midDefault n
  else if n < 62 then lowDefault n
  else if n < 73 then (n : Int) - 61
  else if n < 80 then highDefault n
  else if n < 188 then entryDefault ((n - 80) % 9)
  else if n < 209 then severityDefault (n - 188)
  else if n < 230 then 0
  else if n < 231 then 1
  else routingDefault (n - 231)

/-- The stored value of an item. -/
def Store.get (st : Store) (n : Nat) : Int :=
  ((st.items.find? fun p => p.1 == n).map Prod.snd).getD (itemDefault n)

/-- The list with item `n` at `v`: an item at its default is not listed. -/
def putItem (n : Nat) (v : Int) : List (Nat × Int) → List (Nat × Int)
  | [] => if v = itemDefault n then [] else [(n, v)]
  | (m, w) :: l =>
    if m < n then (m, w) :: putItem n v l
    else if m = n then (if v = itemDefault n then l else (n, v) :: l)
    else if v = itemDefault n then (m, w) :: l
    else (n, v) :: (m, w) :: l

/-- The store with item `n` at `v`. -/
def Store.put (st : Store) (n : Nat) (v : Int) : Store := ⟨putItem n v st.items⟩

/-- Every item at its default (R173). -/
def Store.default : Store := ⟨[]⟩

/-- The canonical form of the list: numbers strictly rising, and no item at its default. -/
def storeWf : List (Nat × Int) → Bool
  | [] => true
  | [p] => p.2 != itemDefault p.1
  | p :: q :: l => p.2 != itemDefault p.1 && p.1 < q.1 && storeWf (q :: l)

/-- "A Tf or T_ack value outside its set is stored as the nearest member"; midway goes to the larger (3.1, note 1). -/
def nearestTf (v : Int) : Int := if v ≤ 3 then 2 else if v ≤ 7 then 5 else if v ≤ 14 then 10 else 20

/-- As `nearestTf`, for 1, 4, 16 and 64. -/
def nearestTack (v : Int) : Int := if v ≤ 2 then 1 else if v ≤ 9 then 4 else if v ≤ 39 then 16 else 64

/-- "A debounce value of 5 or less is stored as 2, and a value of 6 or more is stored as 10" (R129). -/
def nearestDebounce (v : Int) : Int := if v ≤ 5 then 2 else 10

/-- The lowest `k` members of the set of channels `bits`, from bit `i` on, looking at `fuel` bits. -/
def lowestBits (bits : Nat) : Nat → Nat → Nat → Nat
  | 0, _, _ => 0
  | _ + 1, _, 0 => 0
  | fuel + 1, i, k + 1 =>
    if bits.testBit i then 2 ^ i + lowestBits bits fuel (i + 1) k else lowestBits bits fuel (i + 1) (k + 1)

/-- A written kneel group: the four lowest-numbered corners of the set (R111); bits outside 5 to 10 left out (Log 15). -/
def kneelGroupStored (v : Int) : Int := lowestBits v.toNat 6 5 4

/-- A flag item: "any non-zero write stores 1" (11.6, note 4). -/
def flagStored (v : Int) : Int := if v = 0 then 0 else 1

/-- A three-way enumeration item whose other values are stored as the last (R27, R157). -/
def threeStored (v : Int) : Int := clamp 0 2 v

/-- The members of a written set that lie in range (R144). -/
def maskStored (m : Nat) (v : Int) : Int := (v.toNat &&& m : Nat)

/-- Ranges of the plainly clamped items 21 to 58 (5.1, 6.1, 7.1, 1.5, 8.1, 2.1, 4.1). -/
def midRange : Nat → Int × Int
  | 21 => (0, 600)
  | 22 => (0, 800)
  | 23 => (100, 800)
  | 24 => (-2048, 2047)
  | 25 => (-2048, 2047)
  | 26 => (0, 1190)
  | 27 => (10, 1200)
  | 28 => (20, 200)
  | 29 => (1, 50)
  | 30 => (300, 600)
  | 31 => (200, 600)
  | 32 => (0, 500)
  | 33 => (0, 1000)
  | 34 => (0, 255)
  | 37 => (0, 100)
  | 38 => (0, 80)
  | 39 => (0, 1200)
  | 40 => (3, 20)
  | 41 => (1, 10)
  | 42 => (5, 60)
  | 44 => (-120, 0)
  | 45 => (2, 15)
  | 46 => (0, 30)
  | 47 => (0, 30)
  | 48 => (1, 4)
  | 50 => (50, 1000)
  | 51 => (200, 5000)
  | 52 => (20, 200)
  | 53 => (50, 2000)
  | 55 => (0, 200)
  | 56 => (0, 100)
  | 57 => (1, 15)
  | 58 => (100, 2000)
  | 60 => (100, 1000)
  | 61 => (1, 8)
  | 73 => (10, 200)
  | 74 => (2, 50)
  | 76 => (1, 10)
  | 77 => (1, 10)
  | 78 => (1, 10)
  | 79 => (1, 11)
  | _ => (1, 15)

/-- What a written value of entry field `f` is stored as; none where the chapter refuses it (R144). -/
def entryStored (f : Nat) (v : Int) : Option Int :=
  match f with
  | 0 => if 0 ≤ v ∧ v ≤ 6 then some v else none
  | 1 => if 0 ≤ v ∧ v ≤ 3 then some v else none
  | 2 => some (clamp 0 1200 v)
  | 3 => some (clamp 0 100 v)
  | 4 => some (maskStored 15 v)
  | 5 => some (maskStored 7 v)
  | 6 => some (maskStored 32767 v)
  | _ => some (clamp 1 11 v)

/-- What the three bytes of a setpoint kind are stored as: "n is stored as 0" for a kind other than VALUE (R144). -/
def kindStored (code n : Nat) : Option Int :=
  if code < 5 then some ((code * 65536 : Nat) : Int)
  else if code = 5 then some ((5 * 65536 + n : Nat) : Int)
  else none

/-- The value an item takes when it is stored, before the bounds that pairs of items put on each other. -/
def itemStored (n : Nat) (v : Int) : Option Int :=
  if n < 21 then some (clamp (axleRange (n % 7)).1 (axleRange (n % 7)).2 v)
  else if n = 35 ∨ n = 36 then some (flagStored v)
  else if n = 43 then some (kneelGroupStored v)
  else if n = 49 then some (nearestDebounce v)
  else if n = 54 then some (threeStored v)
  else if n = 59 then some (nearestTf v)
  else if n = 75 then some (nearestTack v)
  else if n < 80 then some (clamp (midRange n).1 (midRange n).2 v)
  else if n < 188 then entryStored ((n - 80) % 9) v
  else if n = 190 ∨ n = 200 then some 2
  else if n < 209 then some (threeStored v)
  else if n = 211 ∨ n = 221 then some 0
  else if n < 231 then some (flagStored v)
  else if n < 233 then some (maskStored 7 v + (3 - maskStored 3 v))
  else some (maskStored 7 v)

/-- Whether the two value bytes of an item are two's complement (11.6, note 1). -/
def itemSigned (n : Nat) : Bool := n == 24 || n == 25 || n == 44

/-- The value that the bytes of a CONFIG_WRITE carry for an item of two bytes. -/
def writtenValue (n : Nat) (v0 v1 : Byte) : Int :=
  if itemSigned n then signed (v0 ++ v1) else ((v0 ++ v1).toNat : Int)

/-- The store with item `n` at the in-range value `v`, with the bounds of R73 and R94. -/
def Store.bind (st : Store) (n : Nat) (v : Int) : Store :=
  if n < 21 ∧ n % 7 = 2 then st.put n (min v (st.get (n + 1)))
  else if n < 21 ∧ n % 7 = 3 then st.put n (max v (st.get (n - 1)))
  else if n = 26 then
    if v < st.get 27 then st.put 26 v else (st.put 26 v).put 27 (v + 10)
  else if n = 27 then
    if st.get 26 < v then st.put 27 v else st.put 27 (st.get 26 + 10)
  else if n = 32 then st.put 32 (min v (st.get 33))
  else if n = 33 then st.put 33 (max v (st.get 32))
  else st.put n v

/-- A CONFIG_WRITE to a held item: none where the enumeration value is refused (R180). -/
def Store.write (st : Store) (n : Nat) (v0 v1 v2 : Byte) : Option Store :=
  if itemIsKind n then (kindStored v0.toNat (v1 ++ v2).toNat).map (st.put n)
  else (itemStored n (writtenValue n v0 v1)).map (st.bind n)

/-- The value bytes of an item, most significant byte first (R180). -/
def Store.bytes (st : Store) (n : Nat) : List Byte :=
  if itemIsKind n then set3 (st.get n).toNat else wordInt (st.get n)

/-- The bytes the digest runs over: each held item's number and then its value bytes, from `n` on (R181). -/
def Store.digestBytes (st : Store) : Nat → Nat → List Byte
  | 0, _ => []
  | fuel + 1, n =>
    if itemHeld n then byte n :: (st.bytes n ++ st.digestBytes fuel (n + 1)) else st.digestBytes fuel (n + 1)

/-- The configuration digest (R181). -/
def Store.digest (st : Store) : BitVec 16 := crc16 (st.digestBytes 240 0)

/-! One reader per item. -/

/-- The first item of an axle (R180). -/
def axleBase : Axle → Nat
  | .a => 0
  | .b => 7
  | .c => 14

def Store.gA (st : Store) (x : Axle) : Int := st.get (axleBase x)
def Store.uA (st : Store) (x : Axle) : Int := st.get (axleBase x + 1)
def Store.lMin (st : Store) (x : Axle) : Int := st.get (axleBase x + 2)
def Store.lMax (st : Store) (x : Axle) : Int := st.get (axleBase x + 3)
def Store.nA (st : Store) (x : Axle) : Int := st.get (axleBase x + 4)
def Store.kA (st : Store) (x : Axle) : Int := st.get (axleBase x + 5)
def Store.tA (st : Store) (x : Axle) : Int := st.get (axleBase x + 6)
def Store.haltP (st : Store) : Int := st.get 21
def Store.dEmerg (st : Store) : Int := st.get 22
def Store.dSafe (st : Store) : Int := st.get 23
def Store.gTheta (st : Store) : Int := st.get 24
def Store.gF (st : Store) : Int := st.get 25
def Store.v1 (st : Store) : Int := st.get 26
def Store.v2 (st : Store) : Int := st.get 27
def Store.deltaMax (st : Store) : Int := st.get 28
def Store.rLim (st : Store) : Int := st.get 29
def Store.thetaMax (st : Store) : Int := st.get 30
def Store.thetaWarn (st : Store) : Int := st.get 31
def Store.iBase (st : Store) : Int := st.get 32
def Store.iMax (st : Store) : Int := st.get 33
def Store.gD (st : Store) : Int := st.get 34
def Store.steerFitted (st : Store) : Bool := st.get 35 != 0
def Store.jointFitted (st : Store) : Bool := st.get 36 != 0
def Store.hHigh (st : Store) : Int := st.get 37
def Store.hLow (st : Store) : Int := st.get 38
def Store.vHighMax (st : Store) : Int := st.get 39
def Store.db (st : Store) : Int := st.get 40
/-- T_move in ms. -/
def Store.tMove (st : Store) : Nat := (st.get 41).toNat * 1000
/-- T_valve in ms. -/
def Store.tValve (st : Store) : Nat := (st.get 42).toNat * 1000
/-- Membership of a corner in the kneel group: bit c for channel c (11.6, note 3). -/
def Store.inGroup (st : Store) (k : Corner) : Bool := (st.get 43).toNat.testBit (5 + cornerNo k)
def Store.group (st : Store) : PerCorner Bool := .of st.inGroup
/-- The kneel group in ascending channel order. -/
def Store.groupList (st : Store) : List Corner := Corner.all.filter st.inGroup
def Store.kneelHeight (st : Store) : Int := st.get 44
/-- T_kneel in ms. -/
def Store.tKneel (st : Store) : Nat := (st.get 45).toNat * 1000
/-- T_open_wait in ms. -/
def Store.tOpenWait (st : Store) : Nat := (st.get 46).toNat * 1000
/-- T_kneel_wait in ms. -/
def Store.tKneelWait (st : Store) : Nat := (st.get 47).toNat * 1000
def Store.doorCount (st : Store) : Nat := (st.get 48).toNat
def Store.doorFitted (st : Store) (n : Door) : Bool := doorNo n ≤ st.doorCount
def Store.debounce (st : Store) : Nat := (st.get 49).toNat
def Store.tDoorStale (st : Store) : Nat := (st.get 50).toNat
def Store.tDoorDisagree (st : Store) : Nat := (st.get 51).toNat
def Store.tStale (st : Store) : Nat := (st.get 52).toNat
def Store.tGrace (st : Store) : Nat := (st.get 53).toNat
def Store.wD (st : Store) : Int := st.get 55
def Store.wS (st : Store) : Int := st.get 56
def Store.nDis (st : Store) : Nat := (st.get 57).toNat
def Store.tRest (st : Store) : Nat := (st.get 58).toNat
def Store.tf (st : Store) : Nat := (st.get 59).toNat
def Store.window (st : Store) : Nat := (st.get 60).toNat
def Store.missLimit (st : Store) : Nat := (st.get 61).toNat
def Store.nodeAddr (st : Store) (n : Node) : Nat := (st.get (62 + nodeNo n)).toNat
def Store.brakeTol (st : Store) : Int := st.get 73
def Store.steerTol (st : Store) : Int := st.get 74
def Store.tAck (st : Store) : Nat := (st.get 75).toNat
def Store.lvlDoorHold (st : Store) : Nat := (st.get 76).toNat
def Store.lvlKneel (st : Store) : Nat := (st.get 77).toNat
def Store.lvlDoorOpen (st : Store) : Nat := (st.get 78).toNat
def Store.lvlLane (st : Store) : Nat := (st.get 79).toNat
/-- Field `f` of programmable entry `k`: item 80 + 9k + f (R180). -/
def Store.entryItem (st : Store) (k : Fin 12) (f : Nat) : Int := st.get (80 + 9 * k.val + f)

/-- The setpoint kind an item value names (11.6, note 5). -/
def spKindOf (v : Int) : SpKind :=
  match v.toNat / 65536 with
  | 0 => .halt
  | 1 => .off
  | 2 => .centre
  | 3 => .followBase
  | 4 => .holdPresent
  | _ => .value (BitVec.ofNat 16 v.toNat).toInt

/-- The severity stored for a kind; LANE_LOST reads the stage-2 action (R157). -/
def Store.severity (st : Store) (k : FaultKind) : Severity :=
  if k = .laneLost then Severity.ofCode (st.get 54) else Severity.ofCode (st.get (188 + k.no))

def Store.masked (st : Store) (k : FaultKind) : Bool := st.get (209 + k.no) != 0
def Store.promote (st : Store) : Bool := st.get 230 != 0

/-- Whether a port stands in the routing set of notice kind `j` (R191). -/
def Store.routed (st : Store) (j : Nat) (p : Port) : Bool :=
  match p with
  | .a => (st.get (231 + j)).toNat.testBit 0
  | .b => (st.get (231 + j)).toNat.testBit 1
  | .d => (st.get (231 + j)).toNat.testBit 2

/-- "W = 100 / Tf" (R68). -/
def Store.histDepth (st : Store) : Nat := 100 / st.tf

/-- Fitted channels (R3). -/
def Store.chanFitted (st : Store) : Channel → Bool
  | .brk _ => true
  | .str => st.steerFitted
  | .jnt => st.jointFitted
  | .lvl _ => true
  | .drel n => st.doorFitted n

/-- Fitted nodes (R43). -/
def Store.nodeFitted (st : Store) (n : Node) : Bool := st.chanFitted n.channel

/-- The fitted nodes in ascending channel order (R43). -/
def Store.fittedNodes (st : Store) : List Node := Node.all.filter st.nodeFitted

/-- The rest value of a channel (R1, R2). -/
def Store.rest (st : Store) : Channel → Setpoint
  | .brk _ => .num st.haltP
  | .str => .num 0
  | .jnt => .num st.iMax
  | .lvl _ => .holdPresent
  | .drel _ => .off

/-- A setpoint as it is stored on a channel: within the domain of the channel's class (R1; Log 23 for a value of
another class). -/
def Store.toDomain (st : Store) (c : Channel) (sp : Setpoint) : Setpoint :=
  match c, sp with
  | .brk _, .num n => .num (clamp 0 850 n)
  | .str, .num n => .num (clamp (-st.deltaMax) st.deltaMax n)
  | .jnt, .num n => .num (clamp st.iBase st.iMax n)
  | .lvl _, .num n => .num (clamp (-150) 150 n)
  | .drel _, .on => .on
  | c, _ => st.rest c

end Sys2Proof.Machine
end

