-- ==== Sys2Proof/Machine/Types.lean ====
section
/-! DEFINITION. The state each block owns, as plain data, and the announcements that pass between blocks. -/

namespace Sys2Proof.Machine

/-! CAU -/

/-- The hold-limit timer of a record: absent, "no limit", or running with its remaining ms (R7). -/
inductive HoldTimer where
  | absent
  | noLimit
  | running (ms : Nat)
deriving DecidableEq, Repr

/-- A claim record (R7). Its claim kind is its source's (R4). -/
structure Claim where
  source : Source
  level : Nat
  setpoint : Setpoint
  stamp : Nat
  hold : HoldTimer
  hasHeld : Bool
deriving DecidableEq, Repr

/-- The claim list of one channel with its arrival counter (R7, R8). -/
structure ClaimList where
  claims : List Claim
  counter : Nat
deriving DecidableEq, Repr

/-! MPI -/

/-- The notices (R191). -/
inductive Notice where
  | modeChanged (prev new : Mode)
  | faultRaised (kinds : BitVec 24) (source : FaultSource) (severity : Severity) (mode : Mode)
  | captureFull (kind : FaultKind) (source : FaultSource)
  | claimTaken (channels : BitVec 16) (source : Source)
  | claimDisplaced (channels : BitVec 16) (source : Source)
  | claimExpired (channels : BitVec 16) (source : Source)
  | doorPermit (atRest : Bool) (outputs unsecured : PerDoor Bool) (kneel : KneelState)
  | enterRunLapsed (lane : Lane)
  | testDone (result : TestResult) (node : Node)
deriving DecidableEq, Repr

/-- The previous-frame result: bytes 0 to 9 of the next response (R187). -/
structure Answer where
  kind : Byte
  result : Result
  data : List Byte
deriving DecidableEq, Repr

/-- The transfer on a port: none, in progress with the twelve response bytes fixed at the falling edge of CSn, or
abandoned by a reset until the next falling edge (R187, R194). -/
inductive Transfer where
  | idle
  | active (response : List Byte)
  | abandoned
deriving DecidableEq, Repr

/-- What MPI holds for one port (R187, R192). The alert line is low while the queue is not empty (R193). -/
structure PortState where
  answer : Answer
  queue : List Notice
  lost : Bool
  transfer : Transfer
deriving DecidableEq, Repr

/-! LV -/

/-- A lane's stored setpoint (R25). -/
structure LaneSetpoint where
  demand : Int
  emergency : Bool
  angle : Int
  steer : SteerMode
  level : LevelMode
deriving DecidableEq, Repr

/-- A lane's timer: at most one of the two stages runs (2.3). -/
inductive LaneTimer where
  | stopped
  | stage1 (ms : Nat)
  | stage2 (ms : Nat)
deriving DecidableEq, Repr

/-- What LV holds for one lane. `since` is the time since the last accepted SETPOINT, in ms (R41). -/
structure LaneState where
  stored : LaneSetpoint
  since : Option Nat
  freshness : Freshness
  timer : LaneTimer
deriving DecidableEq, Repr

/-- The five disagreement counters (R33). -/
structure Counters where
  demand : Nat
  emergency : Nat
  angle : Nat
  steer : Nat
  level : Nat
deriving DecidableEq, Repr

/-- LV (R34, R40). `voted` holds D_v, EMERG_v, the voted angle, steer_mode_v and level_mode_v. -/
structure Lv where
  lanes : PerLane LaneState
  voted : LaneSetpoint
  basis : Basis
  counters : Counters
  placed : Bool
  firstVoteDue : Bool
deriving DecidableEq, Repr

/-! ICT -/

/-- ICT: the truth set and the copies of R155. -/
structure Ict where
  truth : BitVec 16
  v : Int
  speedKnown : Bool
  articAbs : Int
  demand : Int
  atRest : Bool
  kneel : KneelState
  emerg : Bool
  doors : PerDoor Bool
  mode : Mode
deriving DecidableEq, Repr

/-- The fields of an entry as configured or fixed (R144, R145). `modes` is the active-mode set: bit 0 RUN, bit 1
DEGRADED, bit 2 SAFE_STOP. -/
structure EntryFields where
  watched : Watched
  comparison : Comparison
  operand : Int
  hysteresis : Int
  mask : PerDoor Bool
  modes : BitVec 3
  targets : List Channel
  level : Nat
  kind : SpKind

/-! BAU -/

/-- A value that a programmable entry gave at placement on BRK_B or BRK_C (R85). -/
structure Given where
  axle : Axle
  entry : Fin 12
  value : Int
deriving DecidableEq, Repr

/-- BAU (R92). A gate is `some true` when open, `some false` when closed. -/
structure Bau where
  samples : PerCorner (Option Int)
  gates : PerAxle (Option Bool)
  load : PerAxle Int
  lost : PerAxle Bool
  saturated : PerAxle Bool
  floor : Bool
  demand : Int
  atRest : Bool
  emerg : Bool
  mode : Mode
  doors : PerDoor Bool
  kneel : KneelState
  given : List Given
deriving DecidableEq, Repr

/-! SJU -/

/-- The four centring conditions (R102). -/
structure Centring where
  mode : Bool
  angle : Bool
  node : Bool
  follow : Bool
deriving DecidableEq, Repr

/-- SJU (R109). `entered` records that an ENTER_RUN has been taken since the lists were last cleared (R106). -/
structure Sju where
  theta : Int
  rate : Int
  rateValid : Bool
  angle : Int
  steer : SteerMode
  v : Int
  speedKnown : Bool
  atRest : Bool
  effective : Int
  target : Int
  rawTarget : Int
  fade : Int
  lastSent : Int
  current : Int
  row : Option Nat
  centring : Centring
  entered : Bool
deriving DecidableEq, Repr

/-! LKU -/

/-- What LKU holds for one corner (7.3). -/
structure CornerState where
  valve : Valve
  height : Option Int
  holder : Option Source
  effective : Setpoint
  nodeLost : Bool
  persist : Option (Dir × Nat)
  valveRun : Option Nat
deriving DecidableEq, Repr

/-- LKU (R127). -/
structure Lku where
  corners : PerCorner CornerState
  kneel : KneelState
  kneelTimer : Option Nat
  level : LevelMode
  v : Int
  speedKnown : Bool
  atRest : Bool
  mode : Mode
  hLane : Int
deriving DecidableEq, Repr

/-! DSV -/

/-- A debounced contact (R130). -/
structure Contact where
  closed : Bool
  run : Nat
deriving DecidableEq, Repr

/-- DSV (R142). `unsecured` is the derived state, `outputs` the release outputs, `releaseOn` the copies of the DREL
effective setpoints. `raised` says that DOOR_DISAGREE has been raised for the contradiction that still stands (R134;
Log 25). -/
structure Dsv where
  contacts : PerDoor Contact
  reports : PerDoor DoorReport
  unsecured : PerDoor Bool
  disagree : PerDoor (Option Nat)
  raised : PerDoor Bool
  since : Option Nat
  stale : Option Nat
  outputs : PerDoor Bool
  releaseOn : PerDoor Bool
  atRest : Bool
  kneel : KneelState
deriving DecidableEq, Repr

/-! MRU -/

/-- A wheel-speed sample and the round that produced it (R60). -/
structure Sample where
  speed : Int
  round : Nat
deriving DecidableEq, Repr

/-- MRU (R71). `nodeState` are MRU's copies of the brake node states (R61); `history` is oldest first. -/
structure Mru where
  slots : PerAxle (Option Sample)
  latest : Nat
  v : Int
  speedKnown : Bool
  atRest : Bool
  settle : Option Nat
  theta : Int
  history : List Int
  rate : Int
  rateValid : Bool
  nodeState : PerAxle NodeState
deriving DecidableEq, Repr

/-! FLC -/

/-- What FLC holds for one node (R59). -/
structure NodeRec where
  state : NodeState
  misses : Nat
  lastCode : Nat
  follow : Nat
  m1 : Int
  m2 : Int
deriving DecidableEq, Repr

/-- A transaction in flight: the command sent, the round, the time its answer may take in microseconds or ms, and the
code of a failed acknowledge that has been received (R44, R45, R55; Log 9). -/
structure Txn where
  node : Node
  address : Nat
  kind : CmdKind
  value : Int
  wait : Nat
  code : Option (Fin 8)
deriving DecidableEq, Repr

/-- The link: stopped, polling, or the shutdown handshake with the nodes still to be asked and whether the link starts
again after the transaction in flight (R42, R55, R56). -/
inductive LinkPhase where
  | stopped
  | polling
  | shutdown (left : List Node) (thenStart : Bool)
deriving DecidableEq, Repr

/-- The self-test result record (R58). -/
structure SelfTest where
  result : TestResult
  node : Node
  pattern : Word
  count : Nat
  sent : Nat
  received : Nat
  mismatch : Option Nat
deriving DecidableEq, Repr

/-- FLC (R59). `codes` is the code accumulator, bit c for code c. `testLive` says that a round has begun since the
self-test was taken (R57); `abortDue` that the test is aborted when the transaction in flight has ended (R58). -/
structure Flc where
  nodes : PerNode NodeRec
  phase : LinkPhase
  timer : Option Nat
  inRound : Bool
  left : List Node
  roundPending : Bool
  round : Nat
  txn : Option Txn
  codes : BitVec 8
  test : SelfTest
  testLive : Bool
  abortDue : Bool
deriving DecidableEq, Repr

/-! FU -/

/-- The log item: its kind and its decoded fields as bytes (R161, R171). -/
structure LogItem where
  kind : ItemKind
  bytes : List Byte
deriving DecidableEq, Repr

/-- The first-fault pointer with the fault log entry (R161). -/
structure LogEntry where
  kind : FaultKind
  origin : FaultSource
  channel : Option Channel
  item : LogItem
deriving DecidableEq, Repr

/-- The affected channel of a capture with its holder and effective setpoint (R163). -/
structure Affected where
  channel : Channel
  holder : Option Source
  effective : Setpoint
deriving DecidableEq, Repr

/-- The capture record (10.7). -/
structure Capture where
  kind : FaultKind
  source : FaultSource
  mode : Mode
  v : Int
  speedKnown : Bool
  atRest : Bool
  theta : Int
  affected : Option Affected
  codes : BitVec 8
deriving DecidableEq, Repr

/-- FU's sticky state (R172). -/
structure Fu where
  status : BitVec 24
  idCorr : Option FaultSource
  idUncorr : Option FaultSource
  multiCorr : Bool
  multiUncorr : Bool
  captureMultiple : Bool
  log : Option LogEntry
  capture : Option Capture
deriving DecidableEq, Repr

/-! MC -/

/-- An open pairing window (R175). -/
structure Opened where
  lane : Lane
  remaining : Nat
deriving DecidableEq, Repr

/-- MC (R173 to R185). `standbyWin` and `resetWin` are the pairing windows, `ready` the ready marks with their
remaining ms, `resetMode` and `resetCause` the reset record, the rest MC's copies (R176). -/
structure Mc where
  mode : Mode
  store : Store
  locked : Bool
  ready : PerLane (Option Nat)
  standbyWin : Option Opened
  resetWin : Option Opened
  resetMode : Mode
  resetCause : Cause
  atRest : Bool
  doors : PerDoor Bool
  kneel : KneelState
deriving DecidableEq, Repr

/-! Announcements -/

/-- What one block reports to others (00_scope.md, Terms: Announcement), and the claim placements and steps that a rule
lets another block take on its own. Each is taken whole, one at a time, oldest first (Log 1). -/
inductive Ev where
  /-- CAU: holder and effective setpoint of a channel (R20). -/
  | channel (c : Channel) (holder : Option Source) (effective : Setpoint) (changed : Bool)
  /-- LV: D_v (R35). -/
  | demand (d : Int)
  /-- LV: EMERG_v (R35). -/
  | emerg (b : Bool)
  /-- LV: the voted angle (R35). -/
  | angle (a : Int)
  /-- LV: steer_mode_v (R35). -/
  | steerMode (m : SteerMode)
  /-- LV: level_mode_v (R35). -/
  | levelMode (m : LevelMode)
  /-- LV places S_LANE (R36). -/
  | placeLane
  /-- LV places S_EMERG (R37). -/
  | placeEmerg
  /-- LV withdraws S_EMERG (R37). -/
  | withdrawEmerg
  /-- MRU: v with speed_known (R69). -/
  | speed (v : Int) (known : Bool)
  /-- MRU: at_rest (R69). -/
  | atRest (b : Bool)
  /-- MRU: the angle with the rate and its validity; `sample` when a joint sample brought it (R69). -/
  | theta (th rate : Int) (valid sample : Bool)
  /-- MRU: abs(theta) (R69). -/
  | artic (a : Int)
  /-- FLC: a node's state (R50). -/
  | node (n : Node) (st : NodeState)
  /-- LKU: the kneel state (R124). -/
  | kneel (k : KneelState)
  /-- DSV: the set of UNSECURED doors (R133). -/
  | doors (set : PerDoor Bool)
  /-- MC: a mode change (R173). -/
  | mode (prev new : Mode)
  /-- FLC or FU to SJU: the steering follow mark sets or clears (R102). -/
  | followMark (b : Bool)
deriving DecidableEq, Repr

end Sys2Proof.Machine
end

