-- ==== Sys2Proof/Machine/Resets.lean ====
section
/-! DEFINITION. The values each block takes at a reset, from the reset table of its chapter. -/

namespace Sys2Proof.Machine

/-- R194. The transfer is idle at the first power-on (Log 8). -/
def portReset (t : Transfer) : PortState := ⟨⟨0, .ok, List.replicate 8 0⟩, [], false, t⟩

/-- The setpoint record of R40. -/
def setpointReset : LaneSetpoint := ⟨0, false, 0, .centre, .normal⟩

/-- R40, also the STANDBY values. -/
def laneReset : LaneState := ⟨setpointReset, none, .stale, .stopped⟩

/-- R40. -/
def lvReset : Lv := ⟨⟨laneReset, laneReset⟩, setpointReset, .held, ⟨0, 0, 0, 0, 0⟩, false, false⟩

/-- R8, R22: an empty list with its counter at 0. -/
def listReset : ClaimList := ⟨[], 0⟩

/-- R22. -/
def cauReset : PerChannel ClaimList := .of fun _ => listReset

/-- "every fitted door UNSECURED" (R142, R155, R92). -/
def doorsReset (st : Store) : PerDoor Bool := .of st.doorFitted

/-- R155. -/
def ictReset (st : Store) : Ict := ⟨0, 0, false, 0, 0, false, .normal, false, doorsReset st, .config⟩

/-- "N_a clamped to [Lmin_a, Lmax_a]" (R77). -/
def nominalLoad (st : Store) (x : Axle) : Int := clamp (st.lMin x) (st.lMax x) (st.nA x)

/-- R92. -/
def bauReset (st : Store) : Bau where
  samples := .of fun _ => none
  gates := .of fun _ => none
  load := .of (nominalLoad st)
  lost := .of fun _ => false
  saturated := .of fun _ => false
  floor := true
  demand := 0
  atRest := false
  emerg := false
  mode := .config
  doors := doorsReset st
  kneel := .normal
  given := []

/-- R109. The last sent value and the follow mark are the ones a warm reset keeps. -/
def sjuReset (st : Store) (lastSent : Int) (follow : Bool) : Sju where
  theta := 0
  rate := 0
  rateValid := false
  angle := 0
  steer := .centre
  v := 0
  speedKnown := false
  atRest := false
  effective := 0
  target := 0
  rawTarget := 0
  fade := 0
  lastSent := lastSent
  current := st.iMax
  row := none
  centring := ⟨false, false, false, follow⟩
  entered := false

/-- R127. -/
def cornerReset : CornerState := ⟨.hold, none, none, .holdPresent, false, none, none⟩

/-- R127. -/
def lkuReset : Lku := ⟨.of fun _ => cornerReset, .normal, none, .normal, 0, false, false, .config, 0⟩

/-- R142. -/
def dsvReset (st : Store) : Dsv where
  contacts := .of fun _ => ⟨false, 0⟩
  reports := .of fun _ => .unknown
  unsecured := doorsReset st
  disagree := .of fun _ => none
  raised := .of fun _ => false
  since := none
  stale := none
  outputs := .of fun _ => false
  releaseOn := .of fun _ => false
  atRest := false
  kneel := .normal

/-- R71. The copies of the node states follow FLC's reset (Log 8). -/
def mruReset : Mru where
  slots := .of fun _ => none
  latest := 0
  v := 0
  speedKnown := false
  atRest := false
  settle := none
  theta := 0
  history := []
  rate := 0
  rateValid := false
  nodeState := .of fun _ => .unpolled

/-- R59. -/
def nodeReset : NodeRec := ⟨.unpolled, 0, 0, 0, 0, 0⟩

/-- R58: NONE with all counts 0 at power-on (node and pattern: Log 8). -/
def testReset : SelfTest := ⟨.none, .brk .a, 0, 0, 0, 0, none⟩

/-- R59. The link is stopped; a warm reset starts it after (R42). -/
def flcReset (t : SelfTest) : Flc where
  nodes := .of fun _ => nodeReset
  phase := .stopped
  timer := none
  inRound := false
  left := []
  roundPending := false
  round := 0
  txn := none
  codes := 0
  test := t
  testLive := false
  abortDue := false

/-- R172, power-on. -/
def fuReset : Fu := ⟨0, none, none, false, false, false, none, none⟩

/-- MC after a reset of either kind (R175, R176, R182). -/
def mcReset (m : Mode) (st : Store) (locked : Bool) (rm : Mode) (rc : Cause) : Mc where
  mode := m
  store := st
  locked := locked
  ready := .of fun _ => none
  standbyWin := none
  resetWin := none
  resetMode := rm
  resetCause := rc
  atRest := false
  doors := doorsReset st
  kneel := .normal

end Sys2Proof.Machine
end

