-- ==== Sys2Proof/Machine/State.lean ====
section
/-! DEFINITION. The whole state of the part as plain data, the reasons a step can stop, and the state right after a
power-on reset. -/

namespace Sys2Proof.Machine

/-- Everything the spec gives the part (INVENTORY.md, State), with the queue of commands. -/
structure State where
  /-- The commands waiting, first in, first out. -/
  pending : List Instr
  /-- Announcements handed over and not yet taken (Log 1, Log 2). -/
  inFlight : List Ev
  /-- The counter the free values are drawn with (Log 7). -/
  freeCount : Nat
  mpi : PerPort PortState
  lv : Lv
  cau : PerChannel ClaimList
  ict : Ict
  bau : Bau
  sju : Sju
  lku : Lku
  dsv : Dsv
  mru : Mru
  flc : Flc
  fu : Fu
  mc : Mc
deriving DecidableEq, Repr

/-- No command of the table stops the part with a fault: its faults are FU's state (R158). -/
inductive Fault where
deriving DecidableEq, Repr

/-- Why a command has no meaning. -/
inductive Refusal where
  /-- Raised by exec for a command with no meaning yet. Safe: nothing is claimed about it. -/
  | notModelled (mnemonic : String)
  /-- Raised by UNKNOWN_KIND_FRAME whose kind byte names a request: no such event (R188). Safe: it is not run. -/
  | kindNamesARequest
deriving DecidableEq, Repr

/-- The part right after a power-on reset: every block at its power-on value, mode POWERUP (R185; Log 6, Log 8). -/
def State.reset : State where
  pending := []
  inFlight := []
  freeCount := 0
  mpi := .of fun _ => portReset .idle
  lv := lvReset
  cau := cauReset
  ict := ictReset Store.default
  bau := bauReset Store.default
  sju := sjuReset Store.default 0 false
  lku := lkuReset
  dsv := dsvReset Store.default
  mru := mruReset
  flc := flcReset testReset
  fu := fuReset
  mc := mcReset .powerup Store.default false .powerup .power

end Sys2Proof.Machine
end

