-- ==== Sys2Proof/Machine/Claims.lean ====
section
/-! DEFINITION. Claim lists: levels, eligibility, order, placement, withdrawal, expiry and rewrite (chapter 1),
as functions on one list; and the fields of the interlock entries (chapter 9) that decide who may claim what. -/

namespace Sys2Proof.Machine

/-! The entries -/

/-- The configured setpoint kind of programmable entry `k` (R144). -/
def Store.entryKind (st : Store) (k : Fin 12) : SpKind := spKindOf (st.entryItem k 8)

/-- Membership of a channel in the target set of programmable entry `k` (R144). -/
def Store.entryTargets (st : Store) (k : Fin 12) (c : Channel) : Bool := (st.entryItem k 6).toNat.testBit (chanNo c)

/-- The fields of P0 to P11 (R144). -/
def progFields (st : Store) (k : Fin 12) : EntryFields where
  watched := Watched.ofCode (st.entryItem k 0)
  comparison := Comparison.ofCode (st.entryItem k 1)
  operand := st.entryItem k 2
  hysteresis := st.entryItem k 3
  mask := .of fun n => (st.entryItem k 4).toNat.testBit (doorNo n - 1)
  modes := BitVec.ofInt 3 (st.entryItem k 5)
  targets := Channel.all.filter (st.entryTargets k)
  level := (st.entryItem k 7).toNat
  kind := st.entryKind k

/-- The fields of F0 to F3 (R145). -/
def fixedFields (st : Store) : FixedEntry → EntryFields
  | .f0 => ⟨.doorsUnsecured, .any, 0, 0, doorsReset st, 7, [.brk .b, .brk .c], 12, .halt⟩
  | .f1 => ⟨.atRest, .none, 0, 0, .of fun _ => false, 7, [.drel .d1, .drel .d2, .drel .d3, .drel .d4], 12, .off⟩
  | .f2 => ⟨.kneelNotNormal, .any, 0, 0, .of fun _ => false, 7, [.brk .b, .brk .c], 12, .halt⟩
  | .f3 => ⟨.atRest, .none, 0, 0, .of fun _ => false, 7, st.groupList.map Channel.lvl, 11, .followBase⟩

/-- The fields of an entry (R144, R145). -/
def entryFields (st : Store) : Entry → EntryFields
  | .fixed f => fixedFields st f
  | .prog k => progFields st k

/-- Whether an entry is armed (R147). -/
def armed (st : Store) (locked : Bool) (e : Entry) : Bool :=
  (entryFields st e).modes != 0 && !(entryFields st e).targets.isEmpty && (entryFields st e).level != 0 &&
    (match e with
     | .fixed _ => true
     | .prog _ => locked)

/-! Sources -/

/-- The level of a source (R4, R5). -/
def sourceLevel (st : Store) : Source → Nat
  | .safe => 15
  | .emerg => 14
  | .centre => 13
  | .entry e => (entryFields st e).level
  | .doorHalt => st.lvlDoorHold
  | .doorKneel => st.lvlKneel
  | .doorOpen _ => st.lvlDoorOpen
  | .joint => 6
  | .lane => st.lvlLane

/-- Whether the table of R4 gives a source a channel (R4, R6). -/
def eligible (st : Store) (src : Source) (c : Channel) : Bool :=
  match src, c with
  | .safe, _ => true
  | .emerg, .brk _ => true
  | .centre, .str => true
  | .entry e, c => (entryFields st e).targets.contains c
  | .doorHalt, .brk .b => true
  | .doorHalt, .brk .c => true
  | .doorKneel, .lvl k => st.inGroup k
  | .doorOpen n, .drel m => n == m
  | .joint, .jnt => true
  | .lane, .brk _ => true
  | .lane, .str => true
  | .lane, .lvl _ => true
  | _, _ => false

/-- Every source, in code order. -/
def allSources : List Source :=
  [.safe, .emerg, .centre] ++ Entry.all.map Source.entry ++
    [.doorHalt, .doorKneel, .doorOpen .d1, .doorOpen .d2, .doorOpen .d3, .doorOpen .d4, .joint, .lane]

/-- The count of sources eligible on a channel, armed or not, fitted or not (R6). -/
def eligibleCount (st : Store) (c : Channel) : Nat := (allSources.filter fun src => eligible st src c).length

/-- The hold limit a timer starts from: 0 shows "no limit" (R15). -/
def holdLimit (ms : Nat) : HoldTimer := if ms = 0 then .noLimit else .running ms

/-- The hold-limit timer that a record of a source starts with while it is not holder (R15). -/
def startHold (st : Store) : Source → HoldTimer
  | .doorKneel => holdLimit st.tKneelWait
  | .doorOpen _ => holdLimit st.tOpenWait
  | _ => .absent

/-! One list -/

/-- The holder is the first record (R9). -/
def holderOf : List Claim → Option Source
  | [] => none
  | x :: _ => some x.source

/-- The effective setpoint (R2). -/
def effectiveOf (st : Store) (c : Channel) : List Claim → Setpoint
  | [] => st.rest c
  | x :: _ => x.setpoint

/-- A record that becomes holder: the timer is discarded and the has-held mark set (R16). -/
def promote (x : Claim) : Claim := { x with hold := .absent, hasHeld := true }

/-- A displaced holder: a ONE_SHOT timer starts from the configured limit (R17). -/
def displace (st : Store) (x : Claim) : Claim := { x with hold := startHold st x.source }

/-- Renumbering (R8). -/
def renumber : Nat → List Claim → List Claim
  | _, [] => []
  | n, x :: l => { x with stamp := n } :: renumber (n + 1) l

/-- The largest value of the arrival counter (R8). -/
def counterMax : Nat := 4294967295

/-- The list before a placement: renumbered when the counter stands at its maximum (R8). -/
def makeRoom (cl : ClaimList) : ClaimList :=
  if cl.counter = counterMax then ⟨renumber 1 cl.claims, cl.claims.length⟩ else cl

/-- Re-placement: the setpoint alone is replaced (R13). -/
def rePlace (src : Source) (sp : Setpoint) (l : List Claim) : List Claim :=
  l.map fun x => if x.source = src then { x with setpoint := sp } else x

/-- "after every record of equal or higher level and before the first record of lower level" (R12). -/
def insertBelow (new : Claim) : List Claim → List Claim
  | [] => [new]
  | x :: l => if new.level ≤ x.level then x :: insertBelow new l else new :: x :: l

/-- Insertion of a new record (R12, R16, R17). -/
def insertRecord (st : Store) (new : Claim) : List Claim → List Claim
  | [] => [promote new]
  | x :: l => if new.level ≤ x.level then x :: insertBelow new l else promote new :: displace st x :: l

/-- Whether a source has a record in a list. -/
def hasRecord (src : Source) (l : List Claim) : Bool := l.any fun x => x.source = src

/-- A placement that CAU accepts (R8, R12, R13). -/
def placeList (st : Store) (src : Source) (sp : Setpoint) (cl : ClaimList) : ClaimList :=
  let r := makeRoom cl
  if hasRecord src r.claims then ⟨rePlace src sp r.claims, r.counter + 1⟩
  else ⟨insertRecord st ⟨src, sourceLevel st src, sp, r.counter + 1, startHold st src, false⟩ r.claims, r.counter + 1⟩

/-- The records of other sources. -/
def without (src : Source) (l : List Claim) : List Claim := l.filter fun x => x.source ≠ src

/-- The first record of a list becomes holder (R16). -/
def promoteHead : List Claim → List Claim
  | [] => []
  | x :: l => promote x :: l

/-- A withdrawal (R14). -/
def withdrawList (src : Source) (cl : ClaimList) : ClaimList :=
  match cl.claims with
  | [] => cl
  | x :: l =>
    if x.source = src then { cl with claims := promoteHead (without src l) }
    else { cl with claims := x :: without src l }

/-- Whether the hold-limit timer of a source's record runs. -/
def holdRuns (src : Source) (l : List Claim) : Bool :=
  l.any fun x => x.source = src && (match x.hold with
    | .running _ => true
    | _ => false)

/-- A rewrite in place: `f` gives the new setpoint of each source it rewrites (R19). -/
def rewriteList (f : Source → Option Setpoint) (cl : ClaimList) : ClaimList :=
  { cl with claims := cl.claims.map fun x =>
      match f x.source with
      | some sp => { x with setpoint := sp }
      | none => x }

/-- The set of one channel (12.4). -/
def channelBit (c : Channel) : BitVec 16 := BitVec.ofNat 16 (2 ^ chanNo c)

/-- The claim notices of a change of list: the record that became holder, then the one displaced (R16, R17, R21). -/
def claimNotices (c : Channel) (old new : List Claim) : List Notice :=
  if holderOf old = holderOf new then []
  else
    (match holderOf new with
      | some s => if isDoorSource s then [.claimTaken (channelBit c) s] else []
      | none => []) ++
    (match holderOf old with
      | some s => if isDoorSource s && hasRecord s new then [.claimDisplaced (channelBit c) s] else []
      | none => [])

/-- The announcement of a change of list, if the holder or the effective setpoint changed (R20). -/
def channelEvents (st : Store) (c : Channel) (old new : List Claim) : List Ev :=
  if holderOf old = holderOf new ∧ effectiveOf st c old = effectiveOf st c new then []
  else [.channel c (holderOf new) (effectiveOf st c new) (decide (holderOf old ≠ holderOf new))]

end Sys2Proof.Machine
end

