-- ==== Sys2Proof/Machine/Notices.lean ====
section
/-! DEFINITION. Notices and the notice queue of one port (R191 to R193). -/

namespace Sys2Proof.Machine

/-- The kind number of a notice (R191). -/
def Notice.kindNo : Notice → Nat
  | .modeChanged .. => 0
  | .faultRaised .. => 1
  | .captureFull .. => 2
  | .claimTaken .. => 3
  | .claimDisplaced .. => 4
  | .claimExpired .. => 5
  | .doorPermit .. => 6
  | .enterRunLapsed .. => 7
  | .testDone .. => 8

/-- "Sets of channels and sets of fault kinds are united, and every other field takes the new notice's value" (R192).
The first argument is the queued notice. -/
def Notice.merge : Notice → Notice → Notice
  | .faultRaised ks _ _ _, .faultRaised ks' src sev m => .faultRaised (ks ||| ks') src sev m
  | .claimTaken cs _, .claimTaken cs' src => .claimTaken (cs ||| cs') src
  | .claimDisplaced cs _, .claimDisplaced cs' src => .claimDisplaced (cs ||| cs') src
  | .claimExpired cs _, .claimExpired cs' src => .claimExpired (cs ||| cs') src
  | _, new => new

/-- The payload of a notice (R191, packed by R189). -/
def Notice.payload : Notice → List Byte
  | .modeChanged prev new => [byte prev.code, byte new.code]
  | .faultRaised ks src sev m => set3 ks.toNat ++ [byte src.code, byte sev.code, byte m.code]
  | .captureFull k src => [byte k.no, byte src.code]
  | .claimTaken cs src => word cs.toNat ++ [byte (sourceCode src)]
  | .claimDisplaced cs src => word cs.toNat ++ [byte (sourceCode src)]
  | .claimExpired cs src => word cs.toNat ++ [byte (sourceCode src)]
  | .doorPermit r o u k => [flag r, doorSet o, doorSet u, byte k.code]
  | .enterRunLapsed l => [if l = .a then 0 else 1]
  | .testDone r n => [byte r.code, byte (nodeNo n)]

/-- Whether a notice of the kind is queued. -/
def kindQueued (k : Nat) (q : List Notice) : Bool := q.any fun n => n.kindNo == k

/-- The queue with the new notice merged into the queued one of its kind, which keeps its place (R192). -/
def mergeInto (n : Notice) (q : List Notice) : List Notice :=
  q.map fun m => if m.kindNo == n.kindNo then m.merge n else m

/-- A notice offered to a port (R192). -/
def offerPort (n : Notice) (p : PortState) : PortState :=
  if kindQueued n.kindNo p.queue then { p with queue := mergeInto n p.queue }
  else if p.queue.length < 8 then { p with queue := p.queue ++ [n] }
  else { p with lost := true }

/-- A notice offered to each port of its routing set (R191). -/
def offerPorts (st : Store) (n : Notice) (m : PerPort PortState) : PerPort PortState :=
  .of fun p => if st.routed n.kindNo p then offerPort n (m.get p) else m.get p

/-- Notices offered one after the other. -/
def offerMany (st : Store) (ns : List Notice) (m : PerPort PortState) : PerPort PortState :=
  ns.foldl (fun m n => offerPorts st n m) m

/-- The port after the removal of its oldest notice: the lost flag clears when the queue becomes empty (R192, R193). -/
def popNotice (p : PortState) : PortState :=
  { p with queue := p.queue.tail, lost := p.lost && !p.queue.tail.isEmpty }

/-- Alert line low while the queue is not empty (R193). -/
def PortState.alertLow (p : PortState) : Bool := !p.queue.isEmpty

end Sys2Proof.Machine
end

