-- ==== Sys2Proof/Machine/Pressure.lean ====
section
/-! DEFINITION. BAU's arithmetic: apportionment loads, pressures, and the setpoint of each brake source
(R79 to R85). -/

namespace Sys2Proof.Machine

/-- Whether the lost-axle set holds every axle (R79). -/
def Bau.allLost (b : Bau) : Bool := b.lost.a && b.lost.b && b.lost.c

/-- Whether the lost-axle set is empty (R79). -/
def Bau.noneLost (b : Bau) : Bool := !b.lost.a && !b.lost.b && !b.lost.c

/-- "M_all is the sum of L_a over the three axles" (R79). -/
def Bau.mAll (b : Bau) : Int := b.load.a + b.load.b + b.load.c

/-- The load of an axle that is not lost, else 0. -/
def Bau.liveLoad (b : Bau) (x : Axle) : Int := if b.lost.get x then 0 else b.load.get x

/-- "M_live is the sum of L_a over the axles not in" the lost-axle set (R79). -/
def Bau.mLive (b : Bau) : Int := b.liveLoad .a + b.liveLoad .b + b.liveLoad .c

/-- The apportionment load of an axle (R79). -/
def Bau.apportioned (b : Bau) (x : Axle) : Int :=
  if b.noneLost || b.lost.get x then b.load.get x else floorDiv (b.load.get x * b.mAll) b.mLive

/-- The raw pressure for a demand (R80). -/
def rawPressure (st : Store) (b : Bau) (x : Axle) (d : Int) : Int :=
  floorDiv (d * b.apportioned x * st.kA x) 1048576 + st.tA x

/-- Whether a demand asks an axle for no pressure at all (R80). -/
def noPressure (b : Bau) (d : Int) : Bool := d == 0 || b.allLost

/-- P_a(Dx) (R80): "the raw pressure clamped to at most 850". -/
def pressure (st : Store) (b : Bau) (x : Axle) (d : Int) : Int :=
  if noPressure b d then 0 else min 850 (rawPressure st b x d)

/-- The halt floor on BRK_B and BRK_C (R83, R87). -/
def floored (st : Store) (b : Bau) (x : Axle) (v : Int) : Int :=
  if b.floor && x != .a then max v st.haltP else v

/-- The halt kinds: max(P_a(D_v), H) (R83). -/
def haltPressure (st : Store) (b : Bau) (x : Axle) : Int := max (pressure st b x b.demand) st.haltP

/-- max(D_v, D_emerg) (R81). -/
def emergDemand (st : Store) (b : Bau) : Int := max b.demand st.dEmerg

/-- The given value of an entry on an axle (R85). -/
def givenValue (b : Bau) (x : Axle) (k : Fin 12) : Option Int :=
  (b.given.find? fun g => g.axle = x && g.entry = k).map Given.value

/-- The record with one more value, which replaces any earlier one for the channel and source (R85). -/
def putGiven (x : Axle) (k : Fin 12) (v : Int) (l : List Given) : List Given :=
  ⟨x, k, v⟩ :: l.filter fun g => !(g.axle = x && g.entry = k)

/-- The setpoint BAU gives a source on a brake channel, from its inputs as they stand; none for a claim that BAU does not
rewrite (R83, R85). -/
def brakeSetpoint (st : Store) (b : Bau) (x : Axle) : Source → Option Int
  | .lane => some (floored st b x (pressure st b x b.demand))
  | .emerg => some (floored st b x (pressure st b x (emergDemand st b)))
  | .safe => some (if b.atRest then st.haltP else floored st b x (pressure st b x st.dSafe))
  | .doorHalt => some (haltPressure st b x)
  | .entry (.fixed .f0) => some (haltPressure st b x)
  | .entry (.fixed .f2) => some (haltPressure st b x)
  | .entry (.prog k) =>
    match st.entryKind k with
    | .halt => some (haltPressure st b x)
    | _ => if x = .a then none else (givenValue b x k).map (floored st b x)
  | _ => none

/-- A demand in use (R81). -/
def demandsInUse (st : Store) (b : Bau) : List Int :=
  (if b.mode.operating then [b.demand] else []) ++
  (if b.mode.operating && b.emerg then [emergDemand st b] else []) ++
  (if b.mode == .safeStop && !b.atRest then [st.dSafe] else [])

/-- The demands in use that saturate an axle (R81). -/
def saturating (st : Store) (b : Bau) (x : Axle) : List Int :=
  (demandsInUse st b).filter fun d => !noPressure b d && decide (850 < rawPressure st b x d)

/-- The largest of the saturating demands (R91). -/
def largest (l : List Int) : Int := l.foldl max 0

/-- The log item of BRAKE_SATURATED: "axle a; L_a; L'_a; the lost-axle set; the saturating demand; its raw pressure" (R91). -/
def saturatedItem (st : Store) (b : Bau) (x : Axle) (d : Int) : List Byte :=
  [byte (axleNo x)] ++ wordInt (b.load.get x) ++ wordInt (b.apportioned x) ++ [axleSet b.lost] ++
    wordInt d ++ word (min 65535 (rawPressure st b x d)).toNat

/-- Whether the floor flag stands (R86). -/
def floorStands (st : Store) (doors : PerDoor Bool) (k : KneelState) : Bool :=
  (Door.all.any fun n => st.doorFitted n && doors.get n) || k != .normal

end Sys2Proof.Machine
end

