-- ==== Sys2Proof/Machine/Ops.lean ====
section
/-! DEFINITION. The shared operations on the whole state: announcing, offering notices, placing, withdrawing,
rewriting and clearing claims, drawing free values. Each is one record update. -/

namespace Sys2Proof.Machine

/-- The configuration store, which every block reads. -/
def State.store (s : State) : Store := s.mc.store

/-- The mode (R173). -/
def State.mode (s : State) : Mode := s.mc.mode

/-- The holder of a channel (R9). -/
def State.holder (s : State) (c : Channel) : Option Source := holderOf (s.cau.get c).claims

/-- The effective setpoint of a channel (R2). -/
def State.effective (s : State) (c : Channel) : Setpoint := effectiveOf s.store c (s.cau.get c).claims

/-- Announcements handed over, to be taken after the present event (Log 1). -/
def announce (evs : List Ev) (s : State) : State := { s with inFlight := s.inFlight ++ evs }

/-- A notice handed to MPI (R191). -/
def offer (n : Notice) (s : State) : State := { s with mpi := offerPorts s.store n s.mpi }

/-- The channel's list takes a new value, with the notices and the announcement of the change (R16, R17, R20, R21). -/
def changeList (c : Channel) (new : ClaimList) (s : State) : State :=
  { s with
    cau := s.cau.set c new
    mpi := offerMany s.store (claimNotices c (s.cau.get c).claims new.claims) s.mpi
    inFlight := s.inFlight ++ channelEvents s.store c (s.cau.get c).claims new.claims }

/-- The number of a numeric setpoint. -/
def numOf : Setpoint → Int
  | .num n => n
  | _ => 0

/-- The setpoint an entry's kind gives for a channel, taken at the placement (R152, R153; Log 23 for a kind that does
not suit the class). -/
def entrySetpoint (s : State) (e : Entry) (c : Channel) : Setpoint :=
  match (entryFields s.store e).kind, c with
  | .halt, .brk x => .num (haltPressure s.store s.bau x)
  | .centre, .str => .num 0
  | .followBase, .lvl _ => .num s.lku.hLane
  | .holdPresent, .brk x => .num (floored s.store s.bau x (numOf (s.effective (.brk x))))
  | .holdPresent, .str => s.effective .str
  | .holdPresent, .jnt => s.effective .jnt
  | .holdPresent, .lvl k => s.effective (.lvl k)
  | .value n, .brk x => .num (floored s.store s.bau x (clamp 0 850 n))
  | .value n, .str => .num n
  | .value n, .jnt => .num n
  | .value n, .lvl _ => .num n
  | _, c => s.store.rest c

/-- The setpoint of a placement, from the unit that computes it (R84, R99, R106, R113, R136 to R138, R152, R177). -/
def placementSetpoint (s : State) (src : Source) (c : Channel) : Setpoint :=
  match src, c with
  | .entry e, c => entrySetpoint s e c
  | src, .brk x => .num ((brakeSetpoint s.store s.bau x src).getD 0)
  | .lane, .str => .num s.sju.target
  | _, .str => .num 0
  | .joint, .jnt => .num s.sju.current
  | _, .jnt => .num s.store.iMax
  | .lane, .lvl _ => .num s.lku.hLane
  | .doorKneel, .lvl _ => .num s.store.kneelHeight
  | _, .lvl _ => .holdPresent
  | .doorOpen _, .drel _ => .on
  | _, .drel _ => .off

/-- The value that a VALUE or HOLD_PRESENT entry gives at a placement on a brake channel (R85). -/
def valueGiven (s : State) (x : Axle) : SpKind → Option Int
  | .value n => some (clamp 0 850 n)
  | .holdPresent => some (numOf (s.effective (.brk x)))
  | _ => none

/-- BAU's given-value record after a placement (R85). -/
def givenAfter (s : State) (src : Source) (c : Channel) : List Given :=
  match src, c with
  | .entry (.prog k), .brk x =>
    if x = .a then s.bau.given
    else match valueGiven s x (s.store.entryKind k) with
      | some v => putGiven x k v s.bau.given
      | none => s.bau.given
  | _, _ => s.bau.given

/-- Whether CAU accepts a placement (R11). -/
def accepts (s : State) (src : Source) (c : Channel) : Bool :=
  s.mode.operating && s.store.chanFitted c && eligible s.store src c

/-- The list after an accepted placement (R12, R13, R1). -/
def placedList (s : State) (src : Source) (c : Channel) : ClaimList :=
  placeList s.store src (s.store.toDomain c (placementSetpoint s src c)) (s.cau.get c)

/-- A placement: taken when CAU accepts it, else dropped (R11). -/
def placeClaim (src : Source) (c : Channel) (s : State) : State :=
  if accepts s src c then
    changeList c (placedList s src c) { s with bau := { s.bau with given := givenAfter s src c } }
  else s

/-- Placements on several channels, one event each, in the order given (R11). -/
def placeClaims (src : Source) (cs : List Channel) (s : State) : State :=
  cs.foldl (fun s c => placeClaim src c s) s

/-- A withdrawal (R14). -/
def withdrawClaim (src : Source) (c : Channel) (s : State) : State :=
  changeList c (withdrawList src (s.cau.get c)) s

/-- Withdrawals from several channels, one event each, in the order given (R14). -/
def withdrawClaims (src : Source) (cs : List Channel) (s : State) : State :=
  cs.foldl (fun s c => withdrawClaim src c s) s

/-- The rewrites of one unit on one channel, taken as a single event (R19, R89). -/
def rewriteChannel (c : Channel) (f : Source → Option Setpoint) (s : State) : State :=
  changeList c (rewriteList (fun src => (f src).map (s.store.toDomain c)) (s.cau.get c)) s

/-- Rewrites on several channels, one event each, in the order given (R89, R113). -/
def rewriteChannels (cs : List Channel) (f : Channel → Source → Option Setpoint) (s : State) : State :=
  cs.foldl (fun s c => rewriteChannel c (f c) s) s

/-- The announcements of the clearing of every list: each channel whose holder or effective setpoint changed (R22), in
ascending channel order, the model's choice (Log 35). -/
def clearEvents (s : State) : List Ev :=
  Channel.all.flatMap fun c => channelEvents s.store c (s.cau.get c).claims []

/-- Clearing by mode entry (R22); BAU's given values and SJU's mark of an ENTER_RUN go with the lists (R85, R106). -/
def clearLists (s : State) : State :=
  { s with
    cau := cauReset
    bau := { s.bau with given := [] }
    sju := { s.sju with entered := false }
    inFlight := s.inFlight ++ clearEvents s }

/-- The announcements that follow a change of the store: each channel whose effective setpoint it moved (R2), in ascending
channel order, the model's choice (Log 35). -/
def restEvents (s : State) (new : Store) : List Ev :=
  Channel.all.flatMap fun c =>
    if effectiveOf new c (s.cau.get c).claims = s.effective c then []
    else [.channel c (s.holder c) (effectiveOf new c (s.cau.get c).claims) false]

/-- The free values of one read are drawn once (Log 7). -/
def drawFree (s : State) : State := { s with freeCount := s.freeCount + 1 }

end Sys2Proof.Machine
end

