-- ==== Sys2Proof/Machine/Flags.lean ====
section
/-! DEFINITION. The flag computations: the flag byte of a response, and FU's statuses, class flags, promotion and
mode effect (R157 to R166). -/

namespace Sys2Proof.Machine

/-- The flag byte of a port's response: bit 7 notice pending, bit 6 notice lost, bits 2 to 0 the mode (12.1). -/
def flagByte (m : Mode) (p : PortState) : Byte :=
  byte (128 * (!p.queue.isEmpty).toNat + 64 * p.lost.toNat + m.code)

/-- Whether a kind's status is set (R158). -/
def Fu.has (f : Fu) (k : FaultKind) : Bool := f.status.getLsbD k.no

/-- The status bit of a kind: bit j for kind j (R189). -/
def kindBit (k : FaultKind) : BitVec 24 := BitVec.ofNat 24 (2 ^ k.no)

/-- Whether a kind stands in the CORRECTABLE class (R157). -/
def isCorrectable (st : Store) (k : FaultKind) : Bool := st.severity k == .correctable

/-- Whether at least one status of a class is set (R160). -/
def classSet (st : Store) (f : Fu) (corr : Bool) : Bool :=
  FaultKind.all.any fun k => f.has k && isCorrectable st k == corr

/-- Whether a detection is captured: DEGRADE or FATAL with the record empty (R163). -/
def captures (st : Store) (f : Fu) (k : FaultKind) : Bool := !isCorrectable st k && f.capture.isNone

/-- Whether a detection finds the record full (R164). -/
def findsFull (st : Store) (f : Fu) (k : FaultKind) : Bool := !isCorrectable st k && f.capture.isSome

/-- Whether a detection is promoted: "PROMOTE is on, the kind's severity is DEGRADE, and the mode is RUN, DEGRADED or
SAFE_STOP", with the record full (R164). -/
def promoted (st : Store) (f : Fu) (m : Mode) (k : FaultKind) : Bool :=
  findsFull st f k && st.promote && st.severity k == .degrade && m.operating

/-- The applied severity (R162). -/
def appliedSeverity (st : Store) (f : Fu) (m : Mode) (k : FaultKind) : Severity :=
  if promoted st f m k then .fatal else st.severity k

/-- The mode effect (R165). -/
def modeAfter : Severity → Mode → Mode
  | .degrade, .run => .degraded
  | .fatal, .run => .safeStop
  | .fatal, .degraded => .safeStop
  | .fatal, .service => .safeStop
  | _, m => m

/-- FU after a detection, but for the capture record (R158 to R161, R164). -/
def fuMarked (st : Store) (k : FaultKind) (src : FaultSource) (ch : Option Channel) (item : LogItem) (f : Fu) : Fu :=
  { f with
    multiCorr := f.multiCorr || (isCorrectable st k && classSet st f true)
    multiUncorr := f.multiUncorr || (!isCorrectable st k && classSet st f false)
    status := f.status ||| kindBit k
    idCorr := if isCorrectable st k then some src else f.idCorr
    idUncorr := if isCorrectable st k then f.idUncorr else some src
    log := if f.log.isNone && !st.masked k then some ⟨k, src, ch, item⟩ else f.log
    captureMultiple := f.captureMultiple || findsFull st f k }

/-- The capture of a detection: the values standing when it is taken (R163). -/
def captureOf (s : State) (k : FaultKind) (src : FaultSource) (ch : Option Channel) : Capture where
  kind := k
  source := src
  mode := s.mode
  v := s.mru.v
  speedKnown := s.mru.speedKnown
  atRest := s.mru.atRest
  theta := s.mru.theta
  affected := ch.map fun c => ⟨c, s.holder c, s.effective c⟩
  codes := s.flc.codes

/-- The notices of a detection: FAULT_RAISED if the kind is unmasked, then CAPTURE_FULL if it was captured (R166). -/
def detectNotices (st : Store) (f : Fu) (m : Mode) (k : FaultKind) (src : FaultSource) : List Notice :=
  (if st.masked k then []
   else [.faultRaised (kindBit k) src (appliedSeverity st f m k) (modeAfter (appliedSeverity st f m k) m)]) ++
  (if captures st f k then [.captureFull k src] else [])

/-- The pairing window of STANDBY after a mode change: it stays open between RUN and DEGRADED alone (R175). -/
def standbyWinAfter (prev new : Mode) (w : Option Opened) : Option Opened :=
  if (prev = .run ∨ prev = .degraded) ∧ (new = .run ∨ new = .degraded) then w else none

/-- The pairing window of WARM_RESET after a mode change: closed by a change into an operating mode with at_rest clear
(R175). -/
def resetWinAfter (new : Mode) (atRest : Bool) (w : Option Opened) : Option Opened :=
  if new.operating && !atRest then none else w

/-- The ready marks after a mode change: "Each mode change other than CONFIG or STANDBY to RUN clears both ENTER_RUN
ready marks" (R173). -/
def readyAfter (prev new : Mode) (r : PerLane (Option Nat)) : PerLane (Option Nat) :=
  if (prev = .config ∨ prev = .standby) ∧ new = .run then r else ⟨none, none⟩

/-- MC after a mode change (R173). -/
def mcEnter (new : Mode) (m : Mc) : Mc :=
  { m with
    mode := new
    ready := readyAfter m.mode new m.ready
    standbyWin := standbyWinAfter m.mode new m.standbyWin
    resetWin := resetWinAfter new m.atRest m.resetWin }

/-- A mode change outside a reset: MODE_CHANGED is handed to MPI and the mode is announced to every block (R173). -/
def setMode (new : Mode) (s : State) : State :=
  { s with
    mc := mcEnter new s.mc
    mpi := offerPorts s.store (.modeChanged s.mode new) s.mpi
    inFlight := s.inFlight ++ [.mode s.mode new] }

/-- FU, the code accumulator and the notices of a detection, before its mode effect (R166, steps 1 to 5). -/
def detectRecord (k : FaultKind) (src : FaultSource) (ch : Option Channel) (item : LogItem) (s : State) : State :=
  { s with
    fu := { fuMarked s.store k src ch item s.fu with
      capture := if captures s.store s.fu k then some (captureOf s k src ch) else s.fu.capture }
    flc := { s.flc with codes := if captures s.store s.fu k then 0 else s.flc.codes }
    mpi := offerMany s.store (detectNotices s.store s.fu s.mode k src) s.mpi }

/-- The mode that a detection leaves (R165). -/
def detectMode (k : FaultKind) (s : State) : Mode := modeAfter (appliedSeverity s.store s.fu s.mode k) s.mode

/-- A detection handed to FU (R156, R166). "In POWERUP no block detects." -/
def detect (k : FaultKind) (src : FaultSource) (ch : Option Channel) (item : List Byte) (s : State) : State :=
  if s.mode = .powerup then s
  else if detectMode k s = s.mode then detectRecord k src ch ⟨k.itemKind, item⟩ s
  else setMode (detectMode k s) (detectRecord k src ch ⟨k.itemKind, item⟩ s)

end Sys2Proof.Machine
end

