-- ==== Sys2Proof/Machine/Brakes.lean ====
section
/-! DEFINITION. BAU's steps: recompute, load estimate, and what it does with each announcement (chapter 5). -/

namespace Sys2Proof.Machine

/-- The saturation flags that a recompute gives (R81). -/
def saturationNow (st : Store) (b : Bau) : PerAxle Bool := .of fun x => !(saturating st b x).isEmpty

/-- BRAKE_SATURATED for an axle whose flag goes from clear to set (R81, R91). -/
def raiseSaturated (before : PerAxle Bool) (x : Axle) (s : State) : State :=
  if !before.get x && s.bau.saturated.get x then
    detect .brakeSaturated .bau (some (.brk x)) (saturatedItem s.store s.bau x (largest (saturating s.store s.bau x))) s
  else s

/-- The setpoints of a recompute for one brake channel (R83, R88). -/
def brakeRewrite (s : State) (x : Axle) : State :=
  rewriteChannel (.brk x) (fun src => (brakeSetpoint s.store s.bau x src).map Setpoint.num) s

/-- The saturation flags of a recompute, with their faults in the order A, B, C (R81). -/
def judgeSaturation (s : State) : State :=
  raiseSaturated s.bau.saturated .c (raiseSaturated s.bau.saturated .b (raiseSaturated s.bau.saturated .a
    { s with bau := { s.bau with saturated := saturationNow s.store s.bau } }))

/-- BAU's recompute (R88): flags and faults, then one event for each brake channel (R89), in ascending channel order, the
model's choice (Log 35). -/
def bauRecompute (s : State) : State :=
  brakeRewrite (brakeRewrite (brakeRewrite (judgeSaturation s) .a) .b) .c

/-- D_v announced (R88). "An announcement that leaves the input equal to the copy BAU holds makes no recompute." -/
def bauDemand (d : Int) (s : State) : State :=
  if s.bau.demand = d then s else bauRecompute { s with bau := { s.bau with demand := d } }

/-- EMERG_v announced (R88). -/
def bauEmerg (b : Bool) (s : State) : State :=
  if s.bau.emerg = b then s else bauRecompute { s with bau := { s.bau with emerg := b } }

/-- at_rest announced (R88). -/
def bauAtRest (b : Bool) (s : State) : State :=
  if s.bau.atRest = b then s else bauRecompute { s with bau := { s.bau with atRest := b } }

/-- The copies of door security and kneel state, with the floor flag they give (R86). -/
def bauFloor (doors : PerDoor Bool) (k : KneelState) (s : State) : State :=
  if s.bau.floor = floorStands s.store doors k then { s with bau := { s.bau with doors := doors, kneel := k } }
  else bauRecompute
    { s with bau := { s.bau with doors := doors, kneel := k, floor := floorStands s.store doors k } }

/-- A brake node's state announced (R78). -/
def bauNode (x : Axle) (st : NodeState) (s : State) : State :=
  if s.bau.lost.get x = (st == .lost) then s
  else bauRecompute { s with bau := { s.bau with lost := s.bau.lost.set x (st == .lost) } }

/-- A mode change announced: the loads from N_a at each entry to RUN through ENTER_RUN (R77), the samples emptied on
entry to STANDBY (R75), and a recompute (R88), which clears the flags outside the operating modes (R81). BAU's copies of D_v and EMERG_v stay as
they are on entry to STANDBY: the model's choice (Log 31). -/
def bauMode (prev new : Mode) (s : State) : State :=
  bauRecompute { s with bau := { s.bau with
    mode := new
    load := if new = .run ∧ (prev = .config ∨ prev = .standby) then .of (nominalLoad s.store) else s.bau.load
    samples := if new = .standby then .of fun _ => none else s.bau.samples } }

/-- The load estimate from two samples (R76). -/
def loadEstimate (st : Store) (x : Axle) (l r : Int) : Int :=
  clamp (st.lMin x) (st.lMax x) (st.uA x + floorDiv ((l + r) * st.gA x) 256)

/-- The load of an axle after a sample is stored: recomputed with the gate open and both samples present (R76). -/
def loadAfter (st : Store) (b : Bau) (x : Axle) (gateOpen : Bool) : Int :=
  match gateOpen, b.samples.get (axleLeft x), b.samples.get (axleRight x) with
  | true, some l, some r => loadEstimate st x l r
  | _, _, _ => b.load.get x

/-- BAU with a corner's sample and its axle's gate stored (R74). -/
def bauStored (k : Corner) (p : Int) (gateOpen : Bool) (b : Bau) : Bau :=
  { b with samples := b.samples.set k (some p), gates := b.gates.set (cornerAxle k) (some gateOpen) }

/-- A load estimate takes a value; one that differs from the value held is a change of BAU's input (R76). -/
def bauLoad (x : Axle) (l : Int) (s : State) : State :=
  if s.bau.load.get x = l then s else bauRecompute { s with bau := { s.bau with load := s.bau.load.set x l } }

/-- A pressure handed in with its gate (R74, R76). -/
def bauPressure (k : Corner) (p : Int) (gateOpen : Bool) (s : State) : State :=
  bauLoad (cornerAxle k) (loadAfter s.store (bauStored k p gateOpen s.bau) (cornerAxle k) gateOpen)
    { s with bau := bauStored k p gateOpen s.bau }

end Sys2Proof.Machine
end

