-- ==== Sys2Proof/Machine/Steer.lean ====
section
/-! DEFINITION. SJU: the steer law, the output rate limiter, centring, and the joint damping law (chapter 6). -/

namespace Sys2Proof.Machine

/-- The steer target before the fade (R97). -/
def steerRaw (st : Store) (j : Sju) : Int :=
  match j.steer with
  | .centre => 0
  | .active => -(truncDiv (st.gTheta * j.theta + st.gF * j.angle) 1024)

/-- The fade factor (R98). -/
def fadeFactor (st : Store) (j : Sju) : Int :=
  if !j.speedKnown then 0
  else if j.v ≤ st.v1 then 1024
  else if st.v2 ≤ j.v then 0
  else floorDiv (1024 * (st.v2 - j.v)) (st.v2 - st.v1)

/-- "truncate(target x f / 1024), clamped" to the steer limit (R99). -/
def steerTarget (st : Store) (j : Sju) : Int :=
  clamp (-st.deltaMax) st.deltaMax (truncDiv (steerRaw st j * fadeFactor st j) 1024)

/-- SJU after a run of the steer law (R97 to R99). -/
def sjuSteered (st : Store) (j : Sju) : Sju :=
  { j with target := steerTarget st j, rawTarget := steerRaw st j, fade := fadeFactor st j }

/-- The setpoints SJU rewrites on STR_C: S_LANE to the target, S_SAFE and S_CENTRE to 0 (R19, R99). -/
def steerSetpoint (j : Sju) : Source → Option Setpoint
  | .lane => some (.num j.target)
  | .safe => some (.num 0)
  | .centre => some (.num 0)
  | _ => none

/-- A run of the steer law on the copies `j` (R96, R99). -/
def runSteer (j : Sju) (s : State) : State :=
  rewriteChannel .str (steerSetpoint (sjuSteered s.store j)) { s with sju := sjuSteered s.store j }

/-- The limiter's next value (R100). -/
def limitStep (st : Store) (j : Sju) : Int :=
  clamp (-st.deltaMax) st.deltaMax (j.lastSent + clamp (-st.rLim) st.rLim (j.effective - j.lastSent))

/-- Same sign, both non-zero (R105, row 3). -/
def sameSign (x y : Int) : Bool := (decide (0 < x) && decide (0 < y)) || (decide (x < 0) && decide (y < 0))

/-- The row of the joint law that matches first (R105). -/
def jointRow (st : Store) (j : Sju) : Nat :=
  if j.atRest then 1
  else if !j.rateValid then 2
  else if st.thetaWarn ≤ absVal j.theta && sameSign j.theta j.rate then 3
  else 4

/-- The joint current of a row (R105). -/
def jointCurrent (st : Store) (j : Sju) : Nat → Int
  | 1 => st.iBase
  | 2 => st.iBase
  | 3 => st.iMax
  | _ => clamp st.iBase st.iMax (st.iBase + floorDiv (st.gD * absVal j.rate) 64)

/-- SJU after a run of the joint law (R105). -/
def sjuDamped (st : Store) (j : Sju) : Sju :=
  { j with row := some (jointRow st j), current := jointCurrent st j (jointRow st j) }

/-- A run of the joint law: S_JOINT is placed again in an operating mode reached through ENTER_RUN (R105, R106). -/
def runJoint (s : State) : State :=
  if s.sju.entered then placeClaim .joint .jnt { s with sju := sjuDamped s.store s.sju }
  else { s with sju := sjuDamped s.store s.sju }

/-- Whether at least one centring condition stands (R103). -/
def Centring.stands (c : Centring) : Bool := c.mode || c.angle || c.node || c.follow

/-- SJU acts on the set of standing conditions (R103). -/
def centre (s : State) : State :=
  if s.sju.centring.stands then placeClaim .centre .str s else withdrawClaim .centre .str s

/-- An event that changes the set of standing conditions (R103). -/
def setCentring (c : Centring) (s : State) : State :=
  if s.sju.centring = c then s else centre { s with sju := { s.sju with centring := c } }

/-- The log item of ARTIC_LIMIT: "the angle; the rate and its validity; the limit; v and speed_known; the last sent
value" (R108). -/
def articItem (st : Store) (j : Sju) : List Byte :=
  wordInt j.theta ++ wordInt j.rate ++ [flag j.rateValid] ++ wordInt st.thetaMax ++ wordInt j.v ++
    [flag j.speedKnown] ++ wordInt j.lastSent

/-- The judgement of an excursion at a joint sample: the fault first, then the condition (R104; Log 20). -/
def judgeExcursion (s : State) : State :=
  if s.store.thetaMax < absVal s.sju.theta then
    if s.sju.centring.angle then s
    else setCentring { s.sju.centring with angle := true }
      (detect .articLimit .sju (some .str) (articItem s.store s.sju) s)
  else setCentring { s.sju.centring with angle := false } s

/-- The angle announced: steer law, joint law, then the excursion at a sample (R96, R105, R104; Log 20). -/
def sjuTheta (th rate : Int) (valid sample : Bool) (s : State) : State :=
  if sample then
    judgeExcursion (runJoint (runSteer { s.sju with theta := th, rate := rate, rateValid := valid } s))
  else runJoint (runSteer { s.sju with theta := th, rate := rate, rateValid := valid } s)

/-- at_rest announced: a run of the joint law (R105). -/
def sjuAtRest (b : Bool) (s : State) : State := runJoint { s with sju := { s.sju with atRest := b } }

/-- v with speed_known announced (R96). -/
def sjuSpeed (v : Int) (known : Bool) (s : State) : State := runSteer { s.sju with v := v, speedKnown := known } s

/-- The voted angle announced (R96). -/
def sjuAngle (a : Int) (s : State) : State := runSteer { s.sju with angle := a } s

/-- steer_mode_v announced (R96). -/
def sjuSteerMode (m : SteerMode) (s : State) : State := runSteer { s.sju with steer := m } s

/-- The STR_C node's state announced (R102). -/
def sjuNode (st : NodeState) (s : State) : State := setCentring { s.sju.centring with node := st == .lost } s

/-- The follow mark sets or clears (R102). -/
def sjuFollow (b : Bool) (s : State) : State := setCentring { s.sju.centring with follow := b } s

/-- The entry to RUN through ENTER_RUN: S_JOINT is placed (R106). -/
def sjuEnter (s : State) : State := placeClaim .joint .jnt { s with sju := { s.sju with entered := true } }

/-- A mode change announced (R102, R103, R106). -/
def sjuMode (prev new : Mode) (s : State) : State :=
  if new = .run then
    centre
      (if prev = .config ∨ prev = .standby
       then sjuEnter { s with sju := { s.sju with centring := { s.sju.centring with mode := false } } }
       else { s with sju := { s.sju with centring := { s.sju.centring with mode := false } } })
  else setCentring { s.sju.centring with mode := new == .degraded } s

/-- The STR_C effective setpoint announced (R100). -/
def sjuEffective (sp : Setpoint) (s : State) : State := { s with sju := { s.sju with effective := numOf sp } }

end Sys2Proof.Machine
end

