-- ==== Sys2Proof/Machine/Level.lean ====
section
/-! DEFINITION. LKU: ride-height target, corner valves, kneel group (chapter 7). -/

namespace Sys2Proof.Machine

/-- The ride-height target (R112). -/
def hLaneOf (st : Store) (l : Lku) : Int :=
  match l.level with
  | .normal => 0
  | .low => -st.hLow
  | .high => if l.speedKnown && decide (l.v ≤ st.vHighMax) && l.mode != .degraded then st.hHigh else 0

/-- The claims on a level channel that follow the target (R113). -/
def followsBase (st : Store) (k : Corner) : Source → Bool
  | .lane => true
  | .entry (.fixed .f3) => st.inGroup k
  | .entry (.prog e) => st.entryKind e == .followBase && st.entryTargets e (.lvl k)
  | _ => false

/-- The level channels in ascending order, the order in which CAU takes their rewrites: the model's choice (Log 35). -/
def levelChannels : List Channel := Corner.all.map Channel.lvl

/-- The setpoints of a change of the target (R113). -/
def levelRewrite (st : Store) (h : Int) (c : Channel) (src : Source) : Option Setpoint :=
  match c with
  | .lvl k => if followsBase st k src then some (.num h) else none
  | _ => none

/-- The target is formed anew from the copies `l`; a change is handed to CAU, an event of its own for each level channel
(R112, R113). R113 gives the six events no order; that they are taken in ascending channel order is the model's choice
(Log 35). -/
def formHLane (l : Lku) (s : State) : State :=
  if hLaneOf s.store l = l.hLane then { s with lku := l }
  else rewriteChannels levelChannels (levelRewrite s.store (hLaneOf s.store l))
    { s with lku := { l with hLane := hLaneOf s.store l } }

/-- level_mode_v announced (R112). -/
def lkuLevelMode (m : LevelMode) (s : State) : State := formHLane { s.lku with level := m } s

/-- v with speed_known announced (R112). -/
def lkuSpeed (v : Int) (known : Bool) (s : State) : State := formHLane { s.lku with v := v, speedKnown := known } s

/-- A mode change announced (R112); the last heights become none on entry to STANDBY (R126). -/
def lkuMode (new : Mode) (s : State) : State :=
  formHLane { s.lku with
    mode := new
    corners := if new = .standby then .of fun k => { s.lku.corners.get k with height := none } else s.lku.corners } s

/-- at_rest announced: its setting discards every running persistence timer (R116). -/
def lkuAtRest (b : Bool) (s : State) : State :=
  { s with lku := { s.lku with
    atRest := b
    corners := if b then .of fun k => { s.lku.corners.get k with persist := none } else s.lku.corners } }

/-! Kneel group -/

/-- A height within the deadband of a target (R120). -/
def nearHeight (st : Store) (t : Int) : Option Int → Bool
  | none => false
  | some h => decide (absVal (h - t) ≤ st.db)

/-- "at kneel" (R120). -/
def atKneel (st : Store) (c : CornerState) : Bool :=
  c.holder == some .doorKneel && nearHeight st st.kneelHeight c.height

/-- "returned" (R120). -/
def returned (st : Store) (c : CornerState) : Bool :=
  match c.effective with
  | .num t => nearHeight st t c.height
  | _ => false

/-- Whether S_DOOR_KNEEL is holder on at least one group corner (R121). -/
def kneelHolds (st : Store) (l : Lku) : Bool :=
  st.groupList.any fun k => (l.corners.get k).holder == some .doorKneel

def allAtKneel (st : Store) (l : Lku) : Bool := st.groupList.all fun k => atKneel st (l.corners.get k)

def allReturned (st : Store) (l : Lku) : Bool := st.groupList.all fun k => returned st (l.corners.get k)

/-- The transition of the kneel state at an event, the first matching row of R121 (Log 22). -/
def kneelNext (st : Store) (l : Lku) : KneelState :=
  match l.kneel with
  | .normal => if kneelHolds st l then .lowering else .normal
  | .lowering => if allAtKneel st l then .kneeled else if kneelHolds st l then .lowering else .raising
  | .kneeled => if kneelHolds st l then .kneeled else .raising
  | .raising => if kneelHolds st l then .lowering else if allReturned st l then .normal else .raising

/-- The kneel timer of a state just entered (R121). -/
def kneelTimerOf (st : Store) : KneelState → Option Nat
  | .lowering | .raising => some st.tKneel
  | _ => none

/-- The kneel state takes a new value and is announced (R121, R124). -/
def setKneel (k : KneelState) (s : State) : State :=
  { s with
    lku := { s.lku with kneel := k, kneelTimer := kneelTimerOf s.store k }
    inFlight := s.inFlight ++ [.kneel k] }

/-- The judgement of the kneel state at an event that reaches corner `k` (R121). -/
def judgeKneel (k : Corner) (s : State) : State :=
  if !s.store.inGroup k || kneelNext s.store s.lku == s.lku.kneel then s
  else setKneel (kneelNext s.store s.lku) s

/-! Corner valves -/

/-- A corner forced to HOLD (R119). -/
def forceHold (c : CornerState) : CornerState := { c with valve := .hold, valveRun := none, persist := none }

/-- A step out of HOLD: the valve-run timer starts and the persistence timer is discarded (R115, R116). -/
def stepValve (st : Store) (d : Dir) (c : CornerState) : CornerState :=
  { c with
    valve := match d with
      | .low => .fill
      | .high => .exhaust
    valveRun := some st.tValve
    persist := none }

/-- A deviation in HOLD: at rest the step is taken at once, else the persistence timer runs in its direction (R115). -/
def deviate (st : Store) (atRest : Bool) (d : Dir) (c : CornerState) : CornerState :=
  if atRest then stepValve st d c
  else match c.persist with
    | some (d', ms) => { c with persist := some (d, if d' = d then ms else st.tMove) }
    | none => { c with persist := some (d, st.tMove) }

/-- The valve of a corner judged at a response of height `h` against the target `t` (R115, R117). -/
def judgeValve (st : Store) (atRest : Bool) (h t : Int) (c : CornerState) : CornerState :=
  match c.valve with
  | .hold =>
    if h < t - st.db then deviate st atRest .low c
    else if t + st.db < h then deviate st atRest .high c
    else { c with persist := none }
  | .fill => if t ≤ h then { c with valve := .hold, valveRun := none } else c
  | .exhaust => if h ≤ t then { c with valve := .hold, valveRun := none } else c

/-- A corner after a response: the height stored, and the valve judged unless the corner is forced to HOLD (R115, R119). -/
def cornerResponse (st : Store) (atRest : Bool) (h : Int) (c : CornerState) : CornerState :=
  match c.effective, c.nodeLost with
  | .num t, false => judgeValve st atRest h t { c with height := some h }
  | _, _ => { c with height := some h }

/-- The gate of an axle (R74). -/
def gateOpen (st : Store) (l : Lku) (x : Axle) : Bool :=
  (l.corners.get (axleLeft x)).valve == .hold && (l.corners.get (axleRight x)).valve == .hold &&
    (l.kneel == .normal || (!st.inGroup (axleLeft x) && !st.inGroup (axleRight x)))

/-- LKU with one corner replaced. -/
def setCorner (k : Corner) (c : CornerState) (s : State) : State :=
  { s with lku := { s.lku with corners := s.lku.corners.set k c } }

/-- A level response taken by LKU, in the order of R115. A transaction that was in flight at the entry to STANDBY ends so
too: BAU stores its pressure after the samples were emptied (R75) and LKU its height after the heights were (R126), and both
are kept through STANDBY: the model's choice (Log 29). -/
def levelResponse (k : Corner) (h p : Int) (s : State) : State :=
  let s1 := bauPressure k p (gateOpen s.store s.lku (cornerAxle k)) s
  judgeKneel k (setCorner k (cornerResponse s1.store s1.lku.atRest h (s1.lku.corners.get k)) s1)

/-- A level channel announced: the copies, the forced HOLD, and the kneel state (R119, R121). -/
def lkuChannel (k : Corner) (holder : Option Source) (sp : Setpoint) (s : State) : State :=
  judgeKneel k (setCorner k
    (if sp = .holdPresent then forceHold { s.lku.corners.get k with holder := holder, effective := sp }
     else { s.lku.corners.get k with holder := holder, effective := sp }) s)

/-- A level node's state announced (R119). -/
def lkuNode (k : Corner) (st : NodeState) (s : State) : State :=
  setCorner k
    (if st = .lost then forceHold { s.lku.corners.get k with nodeLost := true }
     else { s.lku.corners.get k with nodeLost := false }) s

/-! Items and expiries -/

/-- A setpoint in two bytes; 7FFFh for HOLD_PRESENT, "OFF 0, ON 1" (R189, R190). -/
def setpointWord : Setpoint → List Byte
  | .num n => wordInt n
  | .holdPresent => word 0x7FFF
  | .off => word 0
  | .on => word 1

/-- A height in two bytes; 8000h for none (R189). -/
def heightWord : Option Int → List Byte
  | none => word 0x8000
  | some h => wordInt h

/-- The log item of LEVEL_TIMEOUT (R125). -/
def levelItem (k : Corner) (c : CornerState) (atRest : Bool) : List Byte :=
  [byte (cornerNo k), byte c.valve.code] ++ heightWord c.height ++ setpointWord c.effective ++ [flag atRest]

/-- One group corner of the KNEEL_TIMEOUT item: height, holder, effective setpoint (R125). -/
def kneelItemCorner (c : CornerState) : List Byte :=
  heightWord c.height ++ [byte (holderCode c.holder)] ++ setpointWord c.effective

/-- The log item of KNEEL_TIMEOUT, 21 bytes (R125). -/
def kneelItem (st : Store) (l : Lku) : List Byte :=
  ([byte l.kneel.code] ++ st.groupList.flatMap (fun k => kneelItemCorner (l.corners.get k)) ++
    List.replicate 21 0).take 21

/-- Whether a corner has arrived where the state takes it (R125). -/
def arrived (st : Store) (l : Lku) (k : Corner) : Bool :=
  match l.kneel with
  | .raising => returned st (l.corners.get k)
  | _ => atKneel st (l.corners.get k)

/-- The affected channel of KNEEL_TIMEOUT: the lowest-numbered group corner that has not arrived, else the
lowest-numbered group corner (R125). -/
def kneelAffected (st : Store) (l : Lku) : Option Channel :=
  match st.groupList.find? (fun k => !arrived st l k), st.groupList with
  | some k, _ => some (.lvl k)
  | none, k :: _ => some (.lvl k)
  | none, [] => none

/-- Expiry of a persistence timer (R116). -/
def persistExpiry (k : Corner) (s : State) : State :=
  match (s.lku.corners.get k).persist with
  | some (d, _) => setCorner k (stepValve s.store d (s.lku.corners.get k)) s
  | none => s

/-- Expiry of a valve-run timer (R118). FU captures LEVEL_TIMEOUT before anything else of the expiry is taken (Log 28). -/
def valveRunExpiry (k : Corner) (s : State) : State :=
  match (s.lku.corners.get k).valveRun with
  | some _ =>
    detect .levelTimeout .lku (some (.lvl k)) (levelItem k (s.lku.corners.get k) s.lku.atRest)
      (setCorner k (forceHold (s.lku.corners.get k)) s)
  | none => s

/-- The state an expiry of the kneel timer ends in (R122). -/
def kneelTimeoutState : KneelState → KneelState
  | .lowering => .kneeled
  | _ => .normal

/-- Expiry of the kneel timer (R122). FU captures KNEEL_TIMEOUT before the kneel state changes (Log 28). -/
def kneelExpiry (s : State) : State :=
  match s.lku.kneelTimer with
  | some _ =>
    setKneel (kneelTimeoutState s.lku.kneel)
      (detect .kneelTimeout .lku (kneelAffected s.store s.lku) (kneelItem s.store s.lku) s)
  | none => s

end Sys2Proof.Machine
end

