-- ==== Sys2Proof/Machine/Doors.lean ====
section
/-! DEFINITION. DSV: contacts, reports, derived states, contradictions, release outputs and DOOR_PERMIT (chapter 8). -/

namespace Sys2Proof.Machine

/-- Whether a door is UNSECURED (R133). -/
def doorUnsecured (st : Store) (d : Dsv) (n : Door) : Bool :=
  st.doorFitted n && !((d.contacts.get n).closed && d.reports.get n == .closedLocked)

/-- Whether the contact and the report of a door contradict each other (R134). -/
def contradicts (d : Dsv) (n : Door) : Bool :=
  if (d.contacts.get n).closed then d.reports.get n == .opened || d.reports.get n == .obstructed
  else d.reports.get n == .closedLocked

/-- Whether a fitted door's contradiction stands (R134). -/
def doorContradicts (st : Store) (d : Dsv) (n : Door) : Bool := st.doorFitted n && contradicts d n

/-- The disagreement timer of a door after a judgement; a contradiction that has raised DOOR_DISAGREE does not start it
again until it has ended (R134; Log 25). -/
def disagreeAfter (st : Store) (d : Dsv) (n : Door) : Option Nat :=
  if doorContradicts st d n then
    (if d.raised.get n then none else some ((d.disagree.get n).getD st.tDoorDisagree))
  else none

/-- DSV with every derived state formed and every contradiction judged (R133, R134). -/
def dsvFormed (st : Store) (d : Dsv) : Dsv :=
  { d with
    unsecured := .of (doorUnsecured st d)
    disagree := .of (disagreeAfter st d)
    raised := .of fun n => d.raised.get n && doorContradicts st d n }

/-- The DOOR_PERMIT notice with the present values (R140). -/
def permitNotice (d : Dsv) : Notice := .doorPermit d.atRest d.outputs d.unsecured d.kneel

/-- DSV's record takes the value `d`, formed anew; a change of the set of UNSECURED doors is announced and raises
DOOR_PERMIT (R133, R140). -/
def formDoors (d : Dsv) (s : State) : State :=
  if (dsvFormed s.store d).unsecured = s.dsv.unsecured then { s with dsv := dsvFormed s.store d }
  else
    { s with
      dsv := dsvFormed s.store d
      mpi := offerPorts s.store (permitNotice (dsvFormed s.store d)) s.mpi
      inFlight := s.inFlight ++ [.doors (dsvFormed s.store d).unsecured] }

/-- One sample of a contact (R130). -/
def contactSampled (st : Store) (closed : Bool) (c : Contact) : Contact :=
  if closed = c.closed then { c with run := 0 }
  else if c.run + 1 < st.debounce then { c with run := c.run + 1 }
  else ⟨closed, 0⟩

/-- A sample taken at contact `n`: a change of the debounced value forms the derived states again (R130). -/
def sampleContact (n : Door) (closed : Bool) (s : State) : State :=
  if (contactSampled s.store closed (s.dsv.contacts.get n)).closed = (s.dsv.contacts.get n).closed then
    { s with dsv := { s.dsv with
      contacts := s.dsv.contacts.set n (contactSampled s.store closed (s.dsv.contacts.get n)) } }
  else
    formDoors { s.dsv with
      contacts := s.dsv.contacts.set n (contactSampled s.store closed (s.dsv.contacts.get n)) } s

/-- The reports that a DOOR_STATUS stores (R131). -/
def reportsStored (st : Store) (r : PerDoor Byte) : PerDoor DoorReport :=
  .of fun n => if st.doorFitted n then DoorReport.ofCode (r.get n).toNat else .unknown

/-- A DOOR_STATUS taken (R131). -/
def doorStatusTaken (r : PerDoor Byte) (s : State) : State :=
  formDoors { s.dsv with reports := reportsStored s.store r, since := some 0, stale := some s.store.tDoorStale } s

/-- The time since the last DOOR_STATUS in two bytes; a free value while there is none (Log 7). -/
def sinceWord (free : Nat) (place : Nat) : Option Nat → List Byte
  | some t => word t
  | none => word (Config.freeWord free place).toNat

/-- The log item of DOOR_LINK_STALE: "the four reports as they stood before the expiry; the time since the last
DOOR_STATUS" (R141). -/
def staleItem (free : Nat) (d : Dsv) : List Byte :=
  [byte d.reports.d1.code, byte d.reports.d2.code, byte d.reports.d3.code, byte d.reports.d4.code] ++
    sinceWord free 0 d.since

/-- The log item of DOOR_DISAGREE: "the door; its debounced contact; its report; the time since the last DOOR_STATUS"
(R141). -/
def disagreeItem (free : Nat) (d : Dsv) (n : Door) : List Byte :=
  [byte (doorNo n), flag (d.contacts.get n).closed, byte (d.reports.get n).code] ++ sinceWord free 0 d.since

/-- Expiry of the staleness timer (R132). FU captures DOOR_LINK_STALE before the derived states are formed (Log 28). -/
def staleExpiry (s : State) : State :=
  match s.dsv.stale with
  | some _ =>
    let s1 := detect .doorLinkStale (.port .d) none (staleItem s.freeCount s.dsv) (drawFree s)
    formDoors { s1.dsv with reports := .of fun _ => .unknown, stale := none } s1
  | none => s

/-- Expiry of a disagreement timer (R134). -/
def disagreeExpiry (n : Door) (s : State) : State :=
  match s.dsv.disagree.get n with
  | some _ =>
    detect .doorDisagree .dsv (some (.drel n)) (disagreeItem s.freeCount s.dsv n)
      (drawFree { s with dsv := { s.dsv with
        disagree := s.dsv.disagree.set n none
        raised := s.dsv.raised.set n true } })
  | none => s

/-- The release outputs: ON while the effective setpoint is ON and at_rest is set (R139). -/
def outputsOf (releaseOn : PerDoor Bool) (atRest : Bool) : PerDoor Bool := .of fun n => releaseOn.get n && atRest

/-- A DREL channel announced: the output follows at once, from MRU's own flag (R139, R140). -/
def dsvChannel (n : Door) (sp : Setpoint) (s : State) : State :=
  let d := { s.dsv with
    releaseOn := s.dsv.releaseOn.set n (sp == .on)
    outputs := outputsOf (s.dsv.releaseOn.set n (sp == .on)) s.mru.atRest }
  if d.outputs = s.dsv.outputs then { s with dsv := d }
  else { s with dsv := d, mpi := offerPorts s.store (permitNotice d) s.mpi }

/-- The kneel state announced (R140). -/
def dsvKneel (k : KneelState) (s : State) : State :=
  if s.dsv.kneel = k then s
  else { s with
    dsv := { s.dsv with kneel := k }
    mpi := offerPorts s.store (permitNotice { s.dsv with kneel := k }) s.mpi }

/-- A write of the door count: the reports of unfitted doors become UNKNOWN, and the states are formed again (R129). -/
def dsvFitting (s : State) : State :=
  formDoors { s.dsv with
    reports := .of fun n => if s.store.doorFitted n then s.dsv.reports.get n else .unknown } s

end Sys2Proof.Machine
end

