-- ==== Sys2Proof/Machine/Motion.lean ====
section
/-! DEFINITION. MRU: wheel-speed slots, vehicle speed, at rest, articulation (chapter 4). -/

namespace Sys2Proof.Machine

/-- "The age of a sample is the latest round minus the sample's round, taken modulo 65,536" (R61). -/
def sampleAge (latest : Nat) (x : Sample) : Nat := (latest + 65536 - x.round) % 65536

/-- "A sample whose age exceeds 2 is discarded" (R61). -/
def agedSlot (latest : Nat) : Option Sample → Option Sample
  | some x => if 2 < sampleAge latest x then none else some x
  | none => none

/-- The slots after the ageing of a recompute (R61). -/
def agedSlots (m : Mru) : PerAxle (Option Sample) := .of fun x => agedSlot m.latest (m.slots.get x)

/-- Whether a slot's sample is valid: not empty, and its node not LOST (R61). -/
def slotValid (m : Mru) (slots : PerAxle (Option Sample)) (x : Axle) : Bool :=
  (slots.get x).isSome && m.nodeState.get x != .lost

/-- The valid samples' speeds (R61). -/
def validSpeeds (m : Mru) : List Int :=
  Axle.all.filterMap fun x =>
    if slotValid m (agedSlots m) x then ((agedSlots m).get x).map Sample.speed else none

/-- The median of three. -/
def median3 (a b c : Int) : Int := max (min a b) (min (max a b) c)

/-- The vehicle speed from the valid samples (R62). -/
def speedOf (held : Int) : List Int → Int
  | [] => held
  | [a] => a
  | [a, b] => max a b
  | a :: b :: c :: _ => median3 a b c

/-- One slot of the SPEED_UNKNOWN item: value and age, or empty (R63; Log 7, Log 14). -/
def slotItem (free latest place : Nat) : Option Sample → List Byte
  | some x => wordInt x.speed ++ [byte (min 254 (sampleAge latest x))]
  | none => word (Config.freeWord free place).toNat ++ [255]

/-- The log item of SPEED_UNKNOWN: the three slots before the ageing, and the three brake node states (R63). -/
def speedItem (free : Nat) (m : Mru) : List Byte :=
  slotItem free m.latest 0 m.slots.a ++ slotItem free m.latest 1 m.slots.b ++ slotItem free m.latest 2 m.slots.c ++
    [byte m.nodeState.a.code, byte m.nodeState.b.code, byte m.nodeState.c.code]

/-- at_rest takes a value: the release outputs follow within the same event, and the change is announced (R64, R69, R139,
R140). -/
def setAtRest (b : Bool) (s : State) : State :=
  if s.mru.atRest = b then s
  else
    let d := { s.dsv with atRest := b, outputs := outputsOf s.dsv.releaseOn b }
    { s with
      mru := { s.mru with atRest := b }
      dsv := d
      mpi := offerPorts s.store (permitNotice d) s.mpi
      inFlight := s.inFlight ++ [.atRest b] }

/-- The settle timer after a recompute (R64). -/
def settleAfter (st : Store) (m : Mru) : Option Nat :=
  if m.speedKnown && decide (m.v < 5) && !m.atRest then some (m.settle.getD st.tRest) else none

/-- The at-rest flag after a recompute: cleared by unknown speed or v of 5 or more, else as it is (R64). -/
def atRestAfter (m : Mru) : Bool := m.atRest && m.speedKnown && decide (m.v < 5)

/-- What MRU does after every recompute (R64). -/
def judgeRest (s : State) : State :=
  setAtRest (atRestAfter s.mru) { s with mru := { s.mru with settle := settleAfter s.store s.mru } }

/-- MRU with the slots aged and the speed formed (R61, R62). -/
def mruFormed (m : Mru) : Mru :=
  { m with
    slots := agedSlots m
    v := speedOf m.v (validSpeeds m)
    speedKnown := !(validSpeeds m).isEmpty }

/-- The announcement of v with speed_known, when either changed (R69). -/
def speedEvents (m : Mru) : List Ev :=
  if (mruFormed m).v = m.v ∧ (mruFormed m).speedKnown = m.speedKnown then []
  else [.speed (mruFormed m).v (mruFormed m).speedKnown]

/-- The speed formed anew, with SPEED_UNKNOWN when it is lost (R62, R63). `m` is MRU before the ageing. FU takes the
fault, and captures at_rest, before MRU clears at_rest for the same recompute (`judgeRest`): the model's choice, since R63,
R64 and R163 leave the order open (Log 28). -/
def formSpeed (m : Mru) (s : State) : State :=
  if m.speedKnown && !(mruFormed m).speedKnown then
    detect .speedUnknown .mru none (speedItem s.freeCount m)
      (drawFree (announce (speedEvents m) { s with mru := mruFormed m }))
  else announce (speedEvents m) { s with mru := mruFormed m }

/-- A recompute (R61 to R64): the speed with its fault first, then at_rest (Log 28). -/
def mruRecompute (m : Mru) (s : State) : State := judgeRest (formSpeed m s)

/-- The end of a brake SET transaction, with its sample if it brought one (R60). A transaction that was in flight at the
entry to STANDBY ends so too, and its sample is kept through STANDBY: the model's choice beside R70 (Log 29). -/
def brakeEnd (x : Axle) (round : Nat) (sample : Option Int) (s : State) : State :=
  mruRecompute { s.mru with
    latest := round
    slots := match sample with
      | some v => s.mru.slots.set x (some ⟨v, round⟩)
      | none => s.mru.slots } s

/-- A brake node's state announced: a recompute at once (R61). -/
def mruNode (x : Axle) (st : NodeState) (s : State) : State :=
  mruRecompute { s.mru with nodeState := s.mru.nodeState.set x st } s

/-- Expiry of the settle timer (R64). -/
def settleExpiry (s : State) : State :=
  match s.mru.settle with
  | some _ => setAtRest true { s with mru := { s.mru with settle := none } }
  | none => s

/-- The last `n` of a list. -/
def lastN (n : Nat) (l : List Int) : List Int := l.drop (l.length - n)

/-- MRU after a joint sample: the rate formed before the history is extended (R66, R67). -/
def mruSampled (st : Store) (th : Int) (m : Mru) : Mru :=
  let t := clamp (-600) 600 th
  { m with
    theta := t
    rateValid := decide (st.histDepth ≤ m.history.length)
    rate := match m.history with
      | o :: _ => if st.histDepth ≤ m.history.length then clamp (-2000) 2000 ((t - o) * 10) else m.rate
      | [] => m.rate
    history := lastN st.histDepth (m.history ++ [t]) }

/-- The announcements of a joint sample: the angle always, its magnitude when it changed (R69). -/
def thetaEvents (old new : Mru) : List Ev :=
  .theta new.theta new.rate new.rateValid true ::
    (if absVal new.theta = absVal old.theta then [] else [.artic (absVal new.theta)])

/-- A joint sample (R66), also of a transaction in flight at the entry to STANDBY (Log 29). -/
def jointSample (th : Int) (s : State) : State :=
  announce (thetaEvents s.mru (mruSampled s.store th s.mru)) { s with mru := mruSampled s.store th s.mru }

/-- The round gave no articulation sample, or a write empties the history: announced (R66, R68, R69), also when it was empty
before, the model's choice (Log 24). -/
def emptyHistory (s : State) : State :=
  announce [.theta s.mru.theta s.mru.rate false false]
    { s with mru := { s.mru with history := [], rateValid := false } }

/-- Entry to STANDBY: nothing is announced (R70). -/
def mruStandby (s : State) : State :=
  { s with mru := { s.mru with slots := .of fun _ => none, history := [], rateValid := false } }

end Sys2Proof.Machine
end

