-- ==== Sys2Proof/Machine/Interlock.lean ====
section
/-! DEFINITION. ICT: judgement of the entries and what it does with each announcement (chapter 9). -/

namespace Sys2Proof.Machine

/-- The number of doors in a set. -/
def doorCountOf (t : PerDoor Bool) : Int := t.d1.toNat + t.d2.toNat + t.d3.toNat + t.d4.toNat

/-- The value an entry judges; for a set quantity the number of its members, which is 0 just when the set is empty
(R146, R148). -/
def entryValue (i : Ict) (f : EntryFields) : Int :=
  match f.watched with
  | .speed => if i.speedKnown then i.v else 1200
  | .articAbs => i.articAbs
  | .brakeDemand => i.demand
  | .atRest => i.atRest.toNat
  | .kneelNotNormal => (i.kneel != .normal).toNat
  | .emerg => i.emerg.toNat
  | .doorsUnsecured => doorCountOf (.of fun n => i.doors.get n && f.mask.get n)

/-- The comparison of R148 from the present truth. -/
def compareEntry (f : EntryFields) (q : Int) (was : Bool) : Bool :=
  match f.comparison with
  | .above => if was then !decide (q ≤ f.operand - f.hysteresis) else decide (f.operand < q)
  | .below => if was then !decide (f.operand + f.hysteresis ≤ q) else decide (q < f.operand)
  | .any => q != 0
  | .none => q == 0

/-- Whether a mode stands in an active-mode set: bit 0 RUN, bit 1 DEGRADED, bit 2 SAFE_STOP (11.6, note 3). -/
def modeIn (m : Mode) (set : BitVec 3) : Bool :=
  match m with
  | .run => set.getLsbD 0
  | .degraded => set.getLsbD 1
  | .safeStop => set.getLsbD 2
  | _ => false

/-- Whether an entry is true (R144). -/
def Ict.isTrue (i : Ict) (e : Entry) : Bool := i.truth.getLsbD (entryBit e)

/-- The truth set with one entry's truth changed. -/
def setTruth (t : BitVec 16) (e : Entry) (b : Bool) : BitVec 16 :=
  if b then t ||| BitVec.ofNat 16 (2 ^ entryBit e) else t &&& ~~~ BitVec.ofNat 16 (2 ^ entryBit e)

/-- The judgement of an entry: false while unarmed or outside its modes (R147, R148). -/
def judged (st : Store) (locked : Bool) (i : Ict) (e : Entry) : Bool :=
  armed st locked e && modeIn i.mode (entryFields st e).modes &&
    compareEntry (entryFields st e) (entryValue i (entryFields st e)) (i.isTrue e)

/-- An entry judged: a rise places its claims, a fall withdraws them (R149 to R151). -/
def judgeEntry (e : Entry) (s : State) : State :=
  if judged s.store s.mc.locked s.ict e = s.ict.isTrue e then s
  else if judged s.store s.mc.locked s.ict e then
    placeClaims (.entry e) (entryFields s.store e).targets
      { s with ict := { s.ict with truth := setTruth s.ict.truth e true } }
  else
    withdrawClaims (.entry e) (entryFields s.store e).targets
      { s with ict := { s.ict with truth := setTruth s.ict.truth e false } }

/-- The entries of a list judged in order. -/
def judgeEntries (es : List Entry) (s : State) : State := es.foldl (fun s e => judgeEntry e s) s

/-- Every entry that watches a quantity judged, in entry order (R149). -/
def judgeWatching (q : Watched) (s : State) : State :=
  judgeEntries (Entry.all.filter fun e => (entryFields s.store e).watched == q) s

def ictSpeed (v : Int) (known : Bool) (s : State) : State :=
  judgeWatching .speed { s with ict := { s.ict with v := v, speedKnown := known } }

def ictArtic (a : Int) (s : State) : State :=
  judgeWatching .articAbs { s with ict := { s.ict with articAbs := a } }

def ictDemand (d : Int) (s : State) : State :=
  judgeWatching .brakeDemand { s with ict := { s.ict with demand := d } }

def ictAtRest (b : Bool) (s : State) : State :=
  judgeWatching .atRest { s with ict := { s.ict with atRest := b } }

def ictKneel (k : KneelState) (s : State) : State :=
  judgeWatching .kneelNotNormal { s with ict := { s.ict with kneel := k } }

def ictEmerg (b : Bool) (s : State) : State :=
  judgeWatching .emerg { s with ict := { s.ict with emerg := b } }

def ictDoors (t : PerDoor Bool) (s : State) : State :=
  judgeWatching .doorsUnsecured { s with ict := { s.ict with doors := t } }

/-- A mode change announced: all sixteen entries are judged in the new mode; entry to STANDBY sets the copies of
BRAKE_DEMAND and EMERG (R149, R155). -/
def ictMode (new : Mode) (s : State) : State :=
  judgeEntries Entry.all { s with ict := { s.ict with
    mode := new
    demand := if new = .standby then 0 else s.ict.demand
    emerg := if new = .standby then false else s.ict.emerg } }

end Sys2Proof.Machine
end

