-- ==== Sys2Proof/Machine/Lanes.lean ====
section
/-! DEFINITION. LV: lane freshness, the vote, and the lane claims (chapter 2). -/

namespace Sys2Proof.Machine

/-- The stored values of a SETPOINT (R25). -/
def storedSetpoint (d : Word) (e : Byte) (a : Word) (st lv : Byte) : LaneSetpoint where
  demand := clamp 0 800 d.toNat
  emergency := e != 0
  angle := clamp (-500) 500 (signed a)
  steer := SteerMode.ofCode st.toNat
  level := LevelMode.ofCode lv.toNat

/-- The single-lane basis of a lane (R31). -/
def soloBasis : Lane → Basis
  | .a => .aOnly
  | .b => .bOnly

/-- Agreement of the five quantities of two stored setpoints (R32), in the order of the counters. -/
structure Agreement where
  demand : Bool
  emergency : Bool
  angle : Bool
  steer : Bool
  level : Bool
deriving DecidableEq, Repr

def agreement (st : Store) (x y : LaneSetpoint) : Agreement where
  demand := decide (absVal (x.demand - y.demand) ≤ st.wD)
  emergency := x.emergency == y.emergency
  angle := decide (absVal (x.angle - y.angle) ≤ st.wS)
  steer := x.steer == y.steer
  level := x.level == y.level

/-- The voted values of a two-lane vote (R32). `prev` is the voted record before it. -/
def votedTwo (st : Store) (prev x y : LaneSetpoint) : LaneSetpoint where
  demand := max x.demand y.demand
  emergency := x.emergency || y.emergency
  angle := if (agreement st x y).angle then truncDiv (x.angle + y.angle) 2 else prev.angle
  steer := if (agreement st x y).steer then x.steer else .centre
  level := if (agreement st x y).level then x.level else prev.level

/-- One counter after a two-lane vote (R33). -/
def stepCounter (agrees : Bool) (n : Nat) : Nat := if agrees then n - 1 else min 15 (n + 1)

/-- The five counters after a two-lane vote (R33). -/
def stepCounters (g : Agreement) (c : Counters) : Counters :=
  ⟨stepCounter g.demand c.demand, stepCounter g.emergency c.emergency, stepCounter g.angle c.angle,
   stepCounter g.steer c.steer, stepCounter g.level c.level⟩

/-- Whether a counter goes from N_dis - 1 to N_dis (R33). -/
def reaches (nDis before after : Nat) : Bool := before + 1 == nDis && after == nDis

/-- The set of quantities whose counters reached N_dis: bit 0 D, then EMERG, angle, steer, level (R33; Log 14). -/
def reachedSet (nDis : Nat) (c c' : Counters) : Nat :=
  (reaches nDis c.demand c'.demand).toNat + 2 * (reaches nDis c.emergency c'.emergency).toNat +
    4 * (reaches nDis c.angle c'.angle).toNat + 8 * (reaches nDis c.steer c'.steer).toNat +
    16 * (reaches nDis c.level c'.level).toNat

/-- Whether the other lane is FRESH, so that a vote is a two-lane vote (R31). -/
def twoLane (l : Lv) (x : Lane) : Bool := (l.lanes.get (otherLane x)).freshness == .fresh

/-- The voted values of a vote made at lane `x` (R31, R32). -/
def votedAfter (st : Store) (l : Lv) (x : Lane) : LaneSetpoint :=
  if twoLane l x then votedTwo st l.voted (l.lanes.get x).stored (l.lanes.get (otherLane x)).stored
  else (l.lanes.get x).stored

/-- The counters after a vote made at lane `x` (R33). -/
def countersAfter (st : Store) (l : Lv) (x : Lane) : Counters :=
  if twoLane l x then stepCounters (agreement st (l.lanes.get x).stored (l.lanes.get (otherLane x)).stored) l.counters
  else l.counters

/-- The lane after an accepted SETPOINT: FRESH, with its stage-1 timer started afresh (R24, R29). -/
def laneTaken (st : Store) (sp : LaneSetpoint) : LaneState := ⟨sp, some 0, .fresh, .stage1 st.tStale⟩

/-- LV with a SETPOINT stored (R24). -/
def lvStored (st : Store) (x : Lane) (sp : LaneSetpoint) (l : Lv) : Lv :=
  { l with lanes := l.lanes.set x (laneTaken st sp) }

/-- LV after the vote at lane `x` (R31 to R34). -/
def lvVoted (st : Store) (x : Lane) (l : Lv) : Lv :=
  { l with
    voted := votedAfter st l x
    counters := countersAfter st l x
    basis := if twoLane l x then .both else soloBasis x
    placed := l.placed || l.firstVoteDue
    firstVoteDue := false }

/-- The announcements of a vote: every changed value, or all five at the first vote after entry to RUN (R35), then the
placements of R36 and R37 (Log 19). -/
def voteEvents (first : Bool) (old new : LaneSetpoint) : List Ev :=
  (if first || old.demand != new.demand then [.demand new.demand] else []) ++
  (if first || old.emergency != new.emergency then [.emerg new.emergency] else []) ++
  (if first || old.angle != new.angle then [.angle new.angle] else []) ++
  (if first || old.steer != new.steer then [.steerMode new.steer] else []) ++
  (if first || old.level != new.level then [.levelMode new.level] else []) ++
  (if first then [.placeLane] else []) ++
  (if !old.emergency && new.emergency then [.placeEmerg] else []) ++
  (if old.emergency && !new.emergency then [.withdrawEmerg] else [])

/-- The stored fields of a lane as a log item (R161). -/
def laneItem (sp : LaneSetpoint) : List Byte :=
  wordInt sp.demand ++ [flag sp.emergency] ++ wordInt sp.angle ++ [byte sp.steer.code, byte sp.level.code]

/-- LANE_DISAGREE for a vote at lane `x` that took counters to N_dis (R33, R38). -/
def raiseDisagree (x : Lane) (sp : LaneSetpoint) (reached : Nat) (s : State) : State :=
  if reached = 0 then s
  else detect .laneDisagree (.port (lanePort x)) none (laneItem sp ++ [byte reached]) s

/-- A SETPOINT taken at lane `x` (R24, R31, R33, R35). -/
def takeSetpoint (x : Lane) (sp : LaneSetpoint) (s : State) : State :=
  announce
    (voteEvents s.lv.firstVoteDue s.lv.voted (lvVoted s.store x (lvStored s.store x sp s.lv)).voted)
    (raiseDisagree x sp
      (reachedSet s.store.nDis s.lv.counters (lvVoted s.store x (lvStored s.store x sp s.lv)).counters)
      { s with lv := lvVoted s.store x (lvStored s.store x sp s.lv) })

/-- The basis after a lane's stage-1 expiry (R26). -/
def basisAfterStale (l : Lv) (x : Lane) : Basis :=
  if (l.lanes.get (otherLane x)).freshness = .fresh then soloBasis (otherLane x) else .held

/-- A lane with another freshness and timer. -/
def setLane (x : Lane) (f : Freshness) (t : LaneTimer) (l : Lv) : Lv :=
  { l with lanes := l.lanes.set x { l.lanes.get x with freshness := f, timer := t } }

/-- Expiry of a lane's stage-1 timer (R26, R38). -/
def stage1Expiry (x : Lane) (s : State) : State :=
  match (s.lv.lanes.get x).timer with
  | .stage1 _ =>
    detect .laneStale (.port (lanePort x)) none (laneItem (s.lv.lanes.get x).stored)
      { s with lv := { setLane x .stale (.stage2 s.store.tGrace) s.lv with basis := basisAfterStale s.lv x } }
  | _ => s

/-- BOTH_LANES_LOST when the other lane is already LOST (R28). -/
def raiseBothLost (x : Lane) (s : State) : State :=
  if (s.lv.lanes.get (otherLane x)).freshness = .lost then
    detect .bothLanesLost .lv none (laneItem (s.lv.lanes.get x).stored) s
  else s

/-- Expiry of a lane's stage-2 timer (R27, R28, R38). -/
def stage2Expiry (x : Lane) (s : State) : State :=
  match (s.lv.lanes.get x).timer with
  | .stage2 _ =>
    raiseBothLost x
      (detect .laneLost (.port (lanePort x)) none (laneItem (s.lv.lanes.get x).stored)
        { s with lv := setLane x .lost .stopped s.lv })
  | _ => s

/-- A lane at an entry to RUN from CONFIG or STANDBY: STALE, stage 1 from T_stale (R30). -/
def laneEntered (st : Store) (l : LaneState) : LaneState :=
  { l with freshness := .stale, timer := .stage1 st.tStale }

/-- LV at an entry to RUN from CONFIG or STANDBY (R30, R35, R36). -/
def lvEntered (st : Store) (l : Lv) : Lv :=
  { l with
    lanes := ⟨laneEntered st l.lanes.a, laneEntered st l.lanes.b⟩
    firstVoteDue := true
    placed := false }

/-- A mode change announced (R30, R40). -/
def lvMode (prev new : Mode) (s : State) : State :=
  if new = .standby then { s with lv := lvReset }
  else if new = .run ∧ (prev = .config ∨ prev = .standby) then { s with lv := lvEntered s.store s.lv }
  else s

/-- The channels of S_LANE (R36), in ascending order: the model's choice (Log 35). -/
def laneChannels : List Channel := [.brk .a, .brk .b, .brk .c, .str] ++ levelChannels

/-- The channels of S_EMERG (R37), in ascending order: the model's choice (Log 35). -/
def brakeChannels : List Channel := [.brk .a, .brk .b, .brk .c]

/-- The release channels, in ascending order: R177's, and the model's choice where R178 gives none (Log 35). -/
def doorChannels : List Channel := [.drel .d1, .drel .d2, .drel .d3, .drel .d4]

end Sys2Proof.Machine
end

