-- ==== Sys2Proof/Machine/Field.lean ====
section
/-! DEFINITION. FLC: rounds and transactions, responses and misses, node states, the follow monitor, the shutdown
handshake and the echo self-test (chapter 3). -/

namespace Sys2Proof.Machine

/-- FLC takes a new value. -/
def withFlc (f : Flc) (s : State) : State := { s with flc := f }

/-- "While the link is stopped, ... FLD_DE holds the driver disabled" (R42). The level of the pin within a round is bit
timing and is not modelled (Log 5). -/
def Flc.driverHeldOff (f : Flc) : Bool := f.phase == .stopped

/-! Rounds -/

/-- A round begins: the round number goes up by 1, and a self-test that was taken goes live (R43, R57). -/
def roundBegun (st : Store) (f : Flc) : Flc :=
  { f with
    round := (f.round + 1) % 65536
    inRound := true
    left := st.fittedNodes
    testLive := f.testLive || f.test.result == .running }

/-- The link starts: the field cycle timer from Tf, and the first round at once (R42). -/
def linkStarted (st : Store) (f : Flc) : Flc :=
  roundBegun st { f with phase := .polling, timer := some st.tf, roundPending := false }

/-- Whether a poll of the node carries ECHO (R57). -/
def pollsEcho (f : Flc) (n : Node) : Bool := f.testLive && f.test.result == .running && f.test.node == n

/-- The value a SET command carries (R44). -/
def setValue (s : State) : Node → Int
  | .brk x => numOf (s.effective (.brk x))
  | .str => limitStep s.store s.sju
  | .jnt => numOf (s.effective .jnt)
  | .lvl k => (s.lku.corners.get k).valve.code

/-- The command that a poll of a node forms (R44, R57). -/
def pollTxn (s : State) (n : Node) : Txn :=
  if pollsEcho s.flc n then ⟨n, s.store.nodeAddr n, .echo, s.flc.test.pattern.toNat, s.store.window, none⟩
  else ⟨n, s.store.nodeAddr n, .set, setValue s n, s.store.window, none⟩

/-- SJU after a poll forms its command: a STR_C SET steps the limiter (R100). -/
def sjuPolled (s : State) (n : Node) : Sju :=
  if n = .str ∧ ¬ pollsEcho s.flc n then { s.sju with lastSent := limitStep s.store s.sju } else s.sju

/-- The next node of the round is polled. -/
def pollNext (s : State) : State :=
  match s.flc.left with
  | [] => s
  | n :: rest => { s with sju := sjuPolled s n, flc := { s.flc with left := rest, txn := some (pollTxn s n) } }

/-- The round ends; a pending round begins at once (R43). -/
def endRound (s : State) : State :=
  if s.flc.roundPending then pollNext (withFlc (roundBegun s.store { s.flc with roundPending := false }) s)
  else withFlc { s.flc with inRound := false } s

/-- The SHUTDOWN command to a node (R55). -/
def shutdownTxn (st : Store) (n : Node) : Txn := ⟨n, st.nodeAddr n, .shutdown, 0, st.tAck, none⟩

/-- With no transaction in flight, the link begins what comes next (R43, R55, R56; Log 11). -/
def advance (s : State) : State :=
  match s.flc.txn, s.flc.phase with
  | some _, _ => s
  | none, .stopped => s
  | none, .polling =>
    if s.flc.inRound then (if s.flc.left.isEmpty then endRound s else pollNext s) else s
  | none, .shutdown (n :: rest) b =>
    withFlc { s.flc with phase := .shutdown rest b, txn := some (shutdownTxn s.store n) } s
  | none, .shutdown [] true => pollNext (withFlc (linkStarted s.store s.flc) s)
  | none, .shutdown [] false => withFlc { s.flc with phase := .stopped } s

/-- Expiry of the field cycle timer (R43). -/
def cycleExpiry (s : State) : State :=
  match s.flc.timer with
  | none => s
  | some _ =>
    if s.flc.inRound then withFlc { s.flc with timer := some s.store.tf, roundPending := true } s
    else withFlc (roundBegun s.store { s.flc with timer := some s.store.tf }) s

/-! Self-test -/

/-- The record in eight bytes: result, node, pattern, count, sent, received, first mismatch, 0 for none (R58, R190). -/
def testItem (t : SelfTest) : List Byte :=
  [byte t.result.code, byte (nodeNo t.node)] ++ word t.pattern.toNat ++
    [byte t.count, byte t.sent, byte t.received, byte (t.mismatch.getD 0)]

/-- One echo judged (R57). -/
def echoJudged (received matched : Bool) (t : SelfTest) : SelfTest :=
  { t with
    sent := t.sent + 1
    received := t.received + received.toNat
    mismatch := if matched || t.mismatch.isSome then t.mismatch else some (t.sent + 1) }

/-- The result of a test whose count has ended (R58). -/
def testVerdict (t : SelfTest) : TestResult := if t.mismatch.isNone then .pass else .fail

/-- SELF_TEST_FAIL on FAIL (R58, R54). -/
def raiseTestFail (s : State) : State :=
  if s.flc.test.result = .fail then
    detect .selfTestFail (.node s.flc.test.node) (some s.flc.test.node.channel) (testItem s.flc.test) s
  else s

/-- The result set, and TEST_DONE raised (R58). -/
def finishTest (r : TestResult) (s : State) : State :=
  let s1 := raiseTestFail
    (withFlc { s.flc with test := { s.flc.test with result := r }, testLive := false, abortDue := false } s)
  offer (.testDone r s.flc.test.node) s1

/-- An ECHO transaction's end: the record, and the end of the count (R57, R58). The ECHO that ends the count ends the test
with PASS or FAIL, also where the fault of that very transaction takes SERVICE to SAFE_STOP: the model's choice (Log 27). -/
def echoEnd (received matched : Bool) (s : State) : State :=
  let s1 := withFlc { s.flc with test := echoJudged received matched s.flc.test } s
  if s1.flc.test.sent = s1.flc.test.count ∧ s1.flc.abortDue = false then finishTest (testVerdict s1.flc.test) s1 else s1

/-- The judgement of an ECHO at the end of its transaction; of another transaction nothing (R57, R58). -/
def judgeEcho (t : Txn) (received matched : Bool) (s : State) : State :=
  if t.kind = .echo then echoEnd received matched s else s

/-- The abort of a self-test, once no transaction is in flight (R58). -/
def abortTest (s : State) : State := finishTest .aborted s

/-- What waits for the end of the transaction in flight (R58). -/
def afterTxn (s : State) : State := if s.flc.abortDue then abortTest s else s

/-! Nodes -/

/-- A node's record takes a new value; a change of its state is announced (R50). -/
def setNode (n : Node) (r : NodeRec) (s : State) : State :=
  { s with
    flc := { s.flc with nodes := s.flc.nodes.set n r }
    inFlight := s.inFlight ++ (if (s.flc.nodes.get n).state = r.state then [] else [.node n r.state]) }

/-- A node's state after a good response (R48). -/
def stateAfterGood (m : Mode) : NodeState → NodeState
  | .unpolled => .active
  | .active => .active
  | .lost => if m = .config ∨ m = .service then .active else .lost

/-- The log item of a command sent: address, kind, value, miss or failure kind (R54, R161). -/
def commandItem (t : Txn) (failure : Nat) : List Byte :=
  [byte t.address, byte t.kind.code] ++ wordInt t.value ++ [byte failure]

/-- The log item of a response: address echo, return code, measurements (R54, R161). -/
def responseItem (t : Txn) (code : Nat) (m1 m2 : Word) : List Byte :=
  [byte t.address, byte code] ++ word m1.toNat ++ word m2.toNat

/-- The fault of a non-zero return code (R51). -/
def codeFault : Nat → FaultKind
  | 3 => .nodeSensor
  | 4 => .nodeActuator
  | _ => .nodeCode

/-- A code added to the accumulator (R52). -/
def addCode (code : Nat) (codes : BitVec 8) : BitVec 8 := codes ||| BitVec.ofNat 8 (2 ^ code)

/-- A non-zero code recorded as the node's last code and added to the accumulator (R51, R55). -/
def recordCode (n : Node) (code : Nat) (s : State) : State :=
  withFlc { s.flc with
    nodes := s.flc.nodes.set n { s.flc.nodes.get n with lastCode := code }
    codes := addCode code s.flc.codes } s

/-- The return code of a good SET or ECHO response (R51). R52 lets a capture and the arrival of a code be taken in either
order: the code is added before FU captures a fault of the same response, the model's choice (Log 34). -/
def takeCode (t : Txn) (code : Nat) (m1 m2 : Word) (s : State) : State :=
  if code = 0 then s
  else detect (codeFault code) (.node t.node) (some t.node.channel) (responseItem t code m1 m2) (recordCode t.node code s)

/-- The follow count after a response (R53). -/
def followStep (tol achieved commanded : Int) (n : Nat) : Nat :=
  if tol < absVal (achieved - commanded) then min 20 (n + 1) else 0

/-- SJU is told of a FOLLOW_ERROR that names STR_C (R102), by announcement: FU has captured the fault by then, with STR_C's
holder and effective setpoint before SJU places S_CENTRE (R103), the model's choice (Log 28). -/
def tellFollow (n : Node) (s : State) : State := if n = .str then announce [.followMark true] s else s

/-- The follow monitor (R53, R54). FOLLOW_ERROR is captured before SJU takes the follow mark: the model's choice (Log 28). -/
def followMonitor (t : Txn) (tol achieved : Int) (item : List Byte) (s : State) : State :=
  let before := (s.flc.nodes.get t.node).follow
  let after := followStep tol achieved t.value before
  let s1 := withFlc { s.flc with nodes := s.flc.nodes.set t.node { s.flc.nodes.get t.node with follow := after } } s
  if before = 19 ∧ after = 20 then
    tellFollow t.node
      (detect .followError (.node t.node) (some t.node.channel) (item ++ wordInt t.value) s1)
  else s1

/-- The last measurements handed on (R46). -/
def keepMeasures (n : Node) (m1 m2 : Int) (s : State) : State :=
  withFlc { s.flc with nodes := s.flc.nodes.set n { s.flc.nodes.get n with m1 := m1, m2 := m2 } } s

/-- The measurements of a good SET response, clamped and handed on (R46). MRU takes a brake sample before the follow
monitor's FOLLOW_ERROR reaches FU, and SJU the follow mark after FU: the model's choice (Log 28). -/
def handOn (t : Txn) (code : Nat) (m1 m2 : Word) (s : State) : State :=
  match t.node with
  | .brk x =>
    followMonitor t s.store.brakeTol (clamp 0 1000 m1.toNat) (responseItem t code m1 m2)
      (brakeEnd x s.flc.round (some (clamp 0 1200 m2.toNat))
        (keepMeasures t.node (clamp 0 1000 m1.toNat) (clamp 0 1200 m2.toNat) s))
  | .str =>
    followMonitor t s.store.steerTol (signed m1) (responseItem t code m1 m2) (keepMeasures t.node (signed m1) 0 s)
  | .jnt => jointSample (signed m1) (keepMeasures t.node (signed m1) m2.toNat s)
  | .lvl k =>
    levelResponse k (clamp (-150) 150 (signed m1)) (clamp 0 1000 m2.toNat)
      (keepMeasures t.node (clamp (-150) 150 (signed m1)) (clamp 0 1000 m2.toNat) s)

/-- A transaction that brought no measurement: MRU is told of a brake SET transaction's end and of a round without an
articulation sample (R60, R66). -/
def noMeasure (n : Node) (kind : CmdKind) (s : State) : State :=
  match n, kind with
  | .brk x, .set => brakeEnd x s.flc.round none s
  | .jnt, _ => emptyHistory s
  | _, _ => s

/-- A good SET response: its measurements are used unless the code is 3 (R46, R51). -/
def setResponse (t : Txn) (code : Nat) (m1 m2 : Word) (s : State) : State :=
  if code = 3 then noMeasure t.node .set s else handOn t code m1 m2 s

/-- Whether a good response to an ECHO is a match (R57). -/
def echoMatches (code : Nat) (m1 : Word) (s : State) : Bool := decide (code = 0) && decide (m1 = s.flc.test.pattern)

/-- A good ECHO response (R57). -/
def echoResponse (t : Txn) (code : Nat) (m1 : Word) (s : State) : State :=
  noMeasure t.node .echo (echoEnd true (echoMatches code m1 s) s)

/-- The node's record after a good response (R48). -/
def nodeGood (m : Mode) (r : NodeRec) : NodeRec := { r with misses := 0, state := stateAfterGood m r.state }

/-- A good SET or ECHO response (R48, R51, R46, R57). FU takes the return-code fault, with its capture, before MRU and LKU
take the measurements of the same response: the model's choice (Log 28). -/
def goodResponse (t : Txn) (code : Nat) (m1 m2 : Word) (s : State) : State :=
  let s1 := takeCode t code m1 m2 (setNode t.node (nodeGood s.mode (s.flc.nodes.get t.node)) s)
  if t.kind = .echo then echoResponse t code m1 s1 else setResponse t code m1 m2 s1

/-- The axles whose brake nodes are LOST (R54). -/
def lostAxles (f : Flc) : PerAxle Bool := .of fun x => (f.nodes.get (.brk x)).state == .lost

/-- Whether a brake node other than axle `x`'s is LOST (R50). -/
def otherBrakeLost (f : Flc) (x : Axle) : Bool := Axle.all.any fun y => y != x && (lostAxles f).get y

/-- BRAKE_CAPACITY for a second or later lost brake node (R50, R54). -/
def raiseCapacity (n : Node) (s : State) : State :=
  match n with
  | .brk x =>
    if otherBrakeLost s.flc x then
      detect .brakeCapacity .flc (some n.channel) [axleSet (lostAxles s.flc)] s
    else s
  | _ => s

/-- The node's record after a miss (R47). -/
def nodeMissed (limit : Nat) (r : NodeRec) : NodeRec :=
  { r with
    misses := min 255 (r.misses + 1)
    state := if limit ≤ min 255 (r.misses + 1) then .lost else r.state }

/-- The faults of a node that becomes LOST (R47, R50, R54). They are captured before SJU or BAU takes the announcement of the
state, with the holder and the effective setpoint before S_CENTRE or BAU's recompute: the model's choice (Log 28). -/
def becomeLost (t : Txn) (k : MissKind) (s : State) : State :=
  raiseCapacity t.node
    (detect .nodeLost (.node t.node) (some t.node.channel)
      (commandItem t (missCode k) ++ [byte (s.flc.nodes.get t.node).misses]) s)

/-- A miss of a SET or ECHO transaction (R47): FIELD_MISS before NODE_LOST before BRAKE_CAPACITY (R54). FU takes these
faults, and captures with the holder and effective setpoint as they stand, before MRU takes the transaction's end, BAU or
SJU the node's state, or SJU the rate of a joint transaction (Log 28); and MRU takes the end before the announcement of the node's state
(R61 leaves either order; Log 30): the model's choices. -/
def missResponse (t : Txn) (k : MissKind) (s : State) : State :=
  let was := (s.flc.nodes.get t.node).state
  let s1 := detect .fieldMiss (.node t.node) (some t.node.channel) (commandItem t (missCode k))
    (setNode t.node (nodeMissed s.store.missLimit (s.flc.nodes.get t.node)) s)
  let s2 := if was ≠ .lost ∧ (s1.flc.nodes.get t.node).state = .lost then becomeLost t k s1 else s1
  noMeasure t.node t.kind (judgeEcho t false false s2)

/-- The transaction in flight ends. -/
def endTxn (s : State) : State := withFlc { s.flc with txn := none } s

/-- A good response to the transaction in flight (R45). Of a node no longer fitted an ECHO is judged all the same (R58), and
nothing else comes of its transaction; that of a node made not fitted and fitted again meanwhile is taken as any other of the
newly fitted node, where R59 says nothing: the model's choices (Log 17). -/
def fieldResponse (code : Nat) (m1 m2 : Word) (s : State) : State :=
  match s.flc.txn with
  | none => s
  | some t =>
    if t.kind = .shutdown then s
    else if s.store.nodeFitted t.node then afterTxn (goodResponse t code m1 m2 (endTxn s))
    else afterTxn (judgeEcho t true (echoMatches code m1 s) (endTxn s))

/-- The end of the response window of the transaction in flight (R45); of a node no longer fitted, or fitted again meanwhile,
as in `fieldResponse`: the model's choices (Log 17). -/
def windowEnd (k : MissKind) (s : State) : State :=
  match s.flc.txn with
  | none => s
  | some t =>
    if t.kind = .shutdown then s
    else if s.store.nodeFitted t.node then afterTxn (missResponse t k (endTxn s))
    else afterTxn (judgeEcho t false false (endTxn s))

/-! Shutdown handshake -/

/-- A good frame in answer to SHUTDOWN: code 0 is the acknowledge; another code is kept until T_ack (R55; Log 9). -/
def shutdownAck (code : Fin 8) (s : State) : State :=
  match s.flc.txn with
  | none => s
  | some t =>
    if t.kind ≠ .shutdown then s
    else if code = 0 then endTxn s
    else withFlc { s.flc with txn := some { t with code := some (t.code.getD code) } } s

/-- SHUTDOWN_ACK_MISSING (R55). -/
def ackMissing (t : Txn) (failure : Nat) (s : State) : State :=
  detect .shutdownAckMissing (.node t.node) (some t.node.channel) (commandItem t failure) s

/-- The end of a SHUTDOWN transaction at T_ack: a failed acknowledge (R55). Failure kind CODE is 3 (Log 14). The code of such
a failure is added to the accumulator before FU captures SHUTDOWN_ACK_MISSING, where R52 and R163 leave either order: the
model's choice (Log 34). -/
def ackExpiry (k : MissKind) (s : State) : State :=
  match s.flc.txn with
  | none => s
  | some t =>
    if t.kind ≠ .shutdown then s
    else match t.code with
      | some c => ackMissing t 3 (recordCode t.node c.val (endTxn s))
      | none => ackMissing t (missCode k) (endTxn s)

/-! Mode changes, re-admission, configuration -/

/-- FLC on leaving SERVICE while a self-test runs (R58). -/
def flcLeaveService (s : State) : State :=
  if s.flc.test.result = .running then
    (if s.flc.txn.isSome then withFlc { s.flc with abortDue := true } s else abortTest s)
  else s

/-- A mode change announced (R42, R55, R56, R58). -/
def flcMode (prev new : Mode) (s : State) : State :=
  if new = .standby then
    withFlc { s.flc with
      phase := .shutdown s.store.fittedNodes false
      timer := none
      inRound := false
      left := []
      roundPending := false } s
  else if prev = .standby ∧ new = .run then withFlc { s.flc with phase := .shutdown [] true } s
  else if prev = .powerup then withFlc (linkStarted s.store s.flc) s
  else if prev = .service then flcLeaveService s
  else s

/-- A LOST node with miss count 0 becomes ACTIVE (R49). -/
def readmitNode (n : Node) (s : State) : State :=
  if (s.flc.nodes.get n).state = .lost ∧ (s.flc.nodes.get n).misses = 0 then
    setNode n { s.flc.nodes.get n with state := .active } s
  else s

/-- Re-admission at a RECOVER (R49). That the nodes are announced in ascending channel order is the model's choice
(Log 35). -/
def readmit (s : State) : State := Node.all.foldl (fun s n => readmitNode n s) s

/-- A node's fitting changes: UNPOLLED with all at 0, and a node no longer fitted is skipped from then on (R59). -/
def refitNode (n : Node) (s : State) : State :=
  setNode n nodeReset
    (withFlc { s.flc with left := if s.store.nodeFitted n then s.flc.left else s.flc.left.filter (· ≠ n) } s)

end Sys2Proof.Machine
end

