-- ==== Sys2Proof/Machine/Control.lean ====
section
/-! DEFINITION. MC: its copies, SAFE_STOP claims, configuration writes, ENTER_RUN validation and RECOVER conditions
(chapter 11). -/

namespace Sys2Proof.Machine

/-- Channels 0 to 10 in ascending order (R177). -/
def nodeChannels : List Channel := Node.all.map Node.channel

/-- On entry to SAFE_STOP, MC places S_SAFE channel by channel in ascending order; the DREL channels only while at_rest
is clear (R177). -/
def mcMode (new : Mode) (s : State) : State :=
  if new = .safeStop then
    placeClaims .safe (nodeChannels ++ (if s.mc.atRest then [] else doorChannels)) s
  else s

/-- Whether MC's entry to SAFE_STOP has been announced and not yet taken. -/
def entryWaits (s : State) : Bool :=
  s.inFlight.any fun e => match e with
    | .mode _ .safeStop => true
    | _ => false

/-- at_rest announced: in SAFE_STOP the S_SAFE claims on the DREL channels follow it. While the entry itself waits, the
announcement is the one taken first, and "the entry places the DREL claims when at_rest is clear and omits them when it
is set" (R178). -/
def mcAtRest (b : Bool) (s : State) : State :=
  let s1 := { s with mc := { s.mc with atRest := b } }
  if s.mode = .safeStop ∧ entryWaits s = false then
    (if b then withdrawClaims .safe doorChannels s1 else placeClaims .safe doorChannels s1)
  else s1

/-! Configuration writes -/

/-- BAU at a write of an axle item that changed the value held (R73). -/
def axleWritten (x : Axle) (s : State) : State := bauLoad x (nominalLoad s.store x) s

/-- The axle of an axle item. -/
def axleOfItem (n : Nat) : Axle := if n < 7 then .a else if n < 14 then .b else .c

/-- SJU at a write of the steer limit (R94). -/
def steerLimitWritten (s : State) : State :=
  { s with sju := { s.sju with lastSent := clamp (-s.store.deltaMax) s.store.deltaMax s.sju.lastSent } }

/-- SJU at a write of I_base or I_max (R94). -/
def currentWritten (s : State) : State :=
  { s with sju := { s.sju with current := clamp s.store.iBase s.store.iMax s.sju.current } }

/-- SJU when the joint damper is made not fitted: the angle condition is cleared (R95). -/
def angleCleared (s : State) : State :=
  if s.store.jointFitted then s else setCentring { s.sju.centring with angle := false } s

/-- What the owning block does with a taken write of item `n`; `old` is the store before it (R180). A write that makes
steering not fitted while its node is LOST ends the node condition through the UNPOLLED announcement (R59, R50, R102):
the model's choice beside R95 (Log 32). -/
def blockActs (n : Nat) (old : Store) (s : State) : State :=
  if n < 21 then (if s.store.get n = old.get n then s else axleWritten (axleOfItem n) s)
  else if n = 28 then steerLimitWritten s
  else if n = 32 ∨ n = 33 then currentWritten s
  else if n = 35 then (if s.store.get 35 = old.get 35 then s else refitNode .str s)
  else if n = 36 then (if s.store.get 36 = old.get 36 then s else angleCleared (emptyHistory (refitNode .jnt s)))
  else if n = 37 ∨ n = 38 ∨ n = 39 then formHLane s.lku s
  else if n = 48 then (if s.store.get 48 = old.get 48 then s else dsvFitting s)
  else if n = 59 then (if s.store.get 59 = old.get 59 then s else emptyHistory s)
  else s

/-- A taken write: the store, both ready marks cleared, the moved rest values announced, the owning block (R180, R2). -/
def takeWrite (n : Nat) (st : Store) (s : State) : State :=
  blockActs n s.store
    (announce (restEvents s st) { s with mc := { s.mc with store := st, ready := ⟨none, none⟩ } })

/-! ENTER_RUN -/

/-- Whether a setpoint kind is compatible with a channel's class (R154). -/
def compatible (k : SpKind) (c : Channel) : Bool :=
  match k, c with
  | .halt, .brk _ => true
  | .off, .drel _ => true
  | .centre, .str => true
  | .followBase, .lvl _ => true
  | .holdPresent, .drel _ => false
  | .holdPresent, _ => true
  | .value n, .drel _ => n == 0
  | .value _, _ => true
  | _, _ => false

/-- The programmable entries in order. -/
def progEntries : List (Fin 12) := [0, 1, 2, 3, 4, 5, 6, 7, 8, 9, 10, 11]

/-- Whether a programmable entry has a kind incompatible with a target (R154). -/
def entryRefused (st : Store) (k : Fin 12) : Bool :=
  Channel.all.any fun c => st.entryTargets k c && !compatible (st.entryKind k) c

/-- Check 1 (R183). -/
def fatalStanding (s : State) : Option FaultKind :=
  FaultKind.all.find? fun k => s.fu.has k && s.store.severity k == .fatal

/-- Check 2 (R183). -/
def notActive (s : State) : Option Node :=
  s.store.fittedNodes.find? fun n => (s.flc.nodes.get n).state != .active

/-- Check 3 (R183, R6). -/
def overfull (s : State) : Option Channel := Channel.all.find? fun c => decide (8 < eligibleCount s.store c)

/-- Check 4 (R183, R154). -/
def badEntry (s : State) : Option (Fin 12) := progEntries.find? fun k => entryRefused s.store k

/-- The validation: the check and number of the first that fails (R183). -/
def validation (s : State) : Option (Nat × Nat) :=
  match fatalStanding s, notActive s, overfull s, badEntry s with
  | some k, _, _, _ => some (1, k.no)
  | none, some n, _, _ => some (2, nodeNo n)
  | none, none, some c, _ => some (3, chanNo c)
  | none, none, none, some e => some (4, e.val)
  | none, none, none, none => if s.store.groupList.isEmpty then some (5, 43) else none

/-- A passing validation: marks cleared, store locked, mode RUN (R183). -/
def passRun (s : State) : State :=
  setMode .run { s with mc := { s.mc with ready := ⟨none, none⟩, locked := true } }

/-! RECOVER -/

/-- The conditions of RECOVER in order: the number of the first not met (R179). -/
def recoverUnmet (s : State) : Option Nat :=
  if !((s.lv.lanes.a.freshness == .fresh) && (s.lv.lanes.b.freshness == .fresh)) then some 1
  else if s.fu.capture.isSome then some 2
  else if classSet s.store s.fu false then some 3
  else if (notActive s).isSome then some 4
  else none

/-! STANDBY and WARM_RESET conditions -/

/-- The three conditions of MODE_REQUEST STANDBY, from MC's copies (R176). -/
def standbyConditions (s : State) : Bool :=
  s.mc.atRest && (Door.all.all fun n => !(s.store.doorFitted n && s.mc.doors.get n)) && s.mc.kneel == .normal

/-- The conditions of WARM_RESET (R184). -/
def resetConditions (s : State) : Bool := s.mc.atRest || !s.mode.operating

/-- The time a pairing window stays open, in ms (R175). -/
def windowTime : Nat := 100

/-- The time a ready mark stands, in ms (R182). -/
def readyTime : Nat := 1000

end Sys2Proof.Machine
end

