-- ==== Sys2Proof/Machine/Events.lean ====
section
/-! DEFINITION. Announcements taken by their recipients, one at a time, oldest first (Log 1), and the resets. -/

namespace Sys2Proof.Machine

/-- A channel's announcement by class (R20). BRAKE and JOINT reach FLC alone, which reads the list as it forms a
command (R44). -/
def takeChannel (c : Channel) (h : Option Source) (sp : Setpoint) (s : State) : State :=
  match c with
  | .str => sjuEffective sp s
  | .lvl k => lkuChannel k h sp s
  | .drel n => dsvChannel n sp s
  | _ => s

/-- A node's state by class (R50). -/
def takeNode (n : Node) (st : NodeState) (s : State) : State :=
  match n with
  | .brk x => mruNode x st (bauNode x st s)
  | .str => sjuNode st s
  | .jnt => s
  | .lvl k => lkuNode k st s

/-- Whether entry to a mode clears every list (R22). -/
def clearsLists : Mode → Bool
  | .config | .service | .standby => true
  | _ => false

/-- A mode change taken by every block (R173): CAU first, then LV, FLC, MRU, BAU, SJU, LKU, ICT and MC's claims. -/
def takeMode (prev new : Mode) (s : State) : State :=
  let s1 := flcMode prev new (lvMode prev new (if clearsLists new then clearLists s else s))
  mcMode new (ictMode new (lkuMode new (sjuMode prev new (bauMode prev new
    (if new = .standby then mruStandby s1 else s1)))))

/-- One announcement taken by its recipients, in a fixed order (Log 1). -/
def handle (e : Ev) (s : State) : State :=
  match e with
  | .channel c h sp _ => takeChannel c h sp s
  | .demand d => ictDemand d (bauDemand d s)
  | .emerg b => ictEmerg b (bauEmerg b s)
  | .angle a => sjuAngle a s
  | .steerMode m => sjuSteerMode m s
  | .levelMode m => lkuLevelMode m s
  | .placeLane => placeClaims .lane laneChannels s
  | .placeEmerg => placeClaims .emerg brakeChannels s
  | .withdrawEmerg => withdrawClaims .emerg brakeChannels s
  | .speed v k => lkuSpeed v k (sjuSpeed v k (ictSpeed v k s))
  | .atRest b => mcAtRest b (lkuAtRest b (sjuAtRest b (ictAtRest b (bauAtRest b s))))
  | .theta th r v smp => sjuTheta th r v smp s
  | .artic a => ictArtic a s
  | .node n st => takeNode n st s
  | .kneel k =>
    let s1 := dsvKneel k (ictKneel k (bauFloor s.bau.doors k s))
    { s1 with mc := { s1.mc with kneel := k } }
  | .doors d =>
    let s1 := ictDoors d (bauFloor d s.bau.kneel s)
    { s1 with mc := { s1.mc with doors := d } }
  | .mode prev new => takeMode prev new s
  | .followMark b => sjuFollow b s

/-- Announcements taken until none waits, at most `n` of them (Log 2). -/
def settle : Nat → State → State
  | 0, s => s
  | n + 1, s =>
    match s.inFlight with
    | [] => s
    | e :: rest => settle n (handle e { s with inFlight := rest })

/-- The most announcements that one step takes (Log 2). -/
def settleLimit : Nat := 1024

/-- A step is whole: the announcements it caused are taken, and then the field link goes on (Log 11). -/
def complete (s : State) : State := advance (settle settleLimit s)

/-! Resets -/

/-- A transfer in progress when a reset is taken is abandoned (R194). -/
def abandon : Transfer → Transfer
  | .active _ => .abandoned
  | t => t

/-- MPI after a reset (R194). -/
def mpiReset (m : PerPort PortState) : PerPort PortState := .of fun p => portReset (abandon (m.get p).transfer)

/-- The self-test record across a warm reset (R58). -/
def testAfterWarm (t : SelfTest) : SelfTest := if t.result = .running then { t with result := .aborted } else t

/-- A warm reset (R184): every block at its reset values; store, lock, FU's sticky state, last sent value and follow
mark kept; then the link restarts in CONFIG and its first round begins (R42). -/
def warmReset (cause : Cause) (s : State) : State :=
  pollNext
    { s with
      inFlight := []
      mpi := mpiReset s.mpi
      lv := lvReset
      cau := cauReset
      ict := ictReset s.store
      bau := bauReset s.store
      sju := sjuReset s.store s.sju.lastSent s.sju.centring.follow
      lku := lkuReset
      dsv := dsvReset s.store
      mru := mruReset
      flc := linkStarted s.store (flcReset (testAfterWarm s.flc.test))
      mc := mcReset .config s.store s.mc.locked s.mode cause }

/-- A power-on reset (R185): every block at its power-on value, mode POWERUP. -/
def powerOn (s : State) : State :=
  { State.reset with
    pending := s.pending
    freeCount := s.freeCount
    mpi := mpiReset s.mpi }

end Sys2Proof.Machine
end

