-- ==== Sys2Proof/Machine/Operands.lean ====
section
/-! DEFINITION. The judgement of a taken request (R188), the answers (R187), and the operand bytes of requests
(R189). -/

namespace Sys2Proof.Machine

/-- What an owning block answers. -/
structure Reply where
  result : Result
  data : List Byte
deriving DecidableEq, Repr

/-- The previous-frame result of a port takes a value (R186). -/
def answer (p : Port) (kind : Byte) (rep : Reply) (s : State) : State :=
  { s with mpi := s.mpi.set p { s.mpi.get p with answer := ⟨kind, rep.result, pad8 rep.data⟩ } }

/-- The transfer of a port ends at the rising edge of CSn (R186). -/
def closeTransfer (p : Port) (s : State) : State :=
  { s with mpi := s.mpi.set p { s.mpi.get p with transfer := .idle } }

/-- Whether a reset has abandoned the transfer on the port, so that it yields no frame (R194). -/
def isAbandoned (p : Port) (s : State) : Bool := (s.mpi.get p).transfer == .abandoned

/-- The ports of a request (R189). -/
def allPorts (_ : Port) : Bool := true

/-- Ports A and B (R189). -/
def lanePorts (p : Port) : Bool := p != .d

/-- Port D (R189). -/
def doorPort (p : Port) : Bool := p == .d

/-- The owner's part of a request: its state and its answer, if the answer is not already in the state. -/
def owned (p : Port) (kind : Byte) : State × Option Reply → State
  | (s, some rep) => answer p kind rep s
  | (s, none) => s

/-- A taken request judged in the order of R188: POWERUP, the reserved byte, the port, then the owning block. A request
that changes no state "answers with data 00h". -/
def request (p : Port) (r kind : Byte) (ports : Port → Bool) (owner : State → State × Option Reply) (s : State) :
    State :=
  if isAbandoned p s then s
  else if s.mode = .powerup then answer p kind ⟨.refusedState, []⟩ (closeTransfer p s)
  else if r ≠ 0 then answer p kind ⟨.refusedArg, []⟩ (closeTransfer p s)
  else if !ports p then answer p kind ⟨.refusedPort, []⟩ (closeTransfer p s)
  else owned p kind (owner (closeTransfer p s))

/-- An owner that refuses and changes nothing. -/
def refuse (res : Result) (s : State) : State × Option Reply := (s, some ⟨res, []⟩)

/-- The lane whose port a request came on; a request kept from Port D never asks (R24). -/
def laneOfPort : Port → Lane
  | .b => .b
  | _ => .a

/-- The channel and corner bytes of a read (R23, R190). -/
def channelOfByte (b : Byte) : Option Channel := channelOfNo b.toNat

/-- The door a byte names, if it is fitted (R135). -/
def fittedDoor (st : Store) (b : Byte) : Option Door :=
  match doorOfNo b.toNat with
  | some n => if st.doorFitted n then some n else none
  | none => none

/-- The node a byte names, if it is fitted (R57). -/
def fittedNode (st : Store) (b : Byte) : Option Node :=
  match nodeOfNo b.toNat with
  | some n => if st.nodeFitted n then some n else none
  | none => none

end Sys2Proof.Machine
end

