-- ==== Sys2Proof/Machine/Reads.lean ====
section
/-! DEFINITION. The data of the reads: READ_CLAIM, the pages of READ_STATE, READ_CAPTURE and READ_FAULTS (R23, R170,
R171, R190), packed as R189 gives (Log 14). -/

namespace Sys2Proof.Machine

/-- The hold-limit timer of READ_CLAIM: "remaining ms; FFFEh no limit; FFFFh absent" (R190). -/
def holdWord : HoldTimer → List Byte
  | .absent => word 65535
  | .noLimit => word 65534
  | .running ms => word (min ms 65533)

/-- Data byte 1 of READ_CLAIM (R190). -/
def claimByte (x : Claim) (index : Nat) : Byte :=
  byte (16 * x.level + 4 * (claimKind x.source).code + 2 * x.hasHeld.toNat +
    (x.hasHeld && index != 0).toNat)

/-- The data of READ_CLAIM for a record at a position (R23, R190). -/
def claimData (x : Claim) (index : Nat) : List Byte :=
  [byte (sourceCode x.source), claimByte x index] ++ setpointWord x.setpoint ++ word x.stamp ++ holdWord x.hold

/-- One free two-byte value of an answer (Log 7). -/
def freeWordBytes (s : State) (place : Nat) : List Byte := word (Config.freeWord s.freeCount place).toNat

/-- One wheel-speed slot: speed, age (FFh empty), valid (R190; the speed bytes of an empty slot are free, Log 7). -/
def slotData (s : State) (x : Axle) : List Byte :=
  (match s.mru.slots.get x with
    | some y => wordInt y.speed ++ [byte (min 254 (sampleAge s.mru.latest y))]
    | none => freeWordBytes s (axleNo x) ++ [255]) ++ [flag (slotValid s.mru s.mru.slots x)]

/-- Centring conditions: "bit 0 mode, 1 angle, 2 node, 3 follow" (R190). -/
def centringByte (c : Centring) : Byte :=
  byte (c.mode.toNat + 2 * c.angle.toNat + 4 * c.node.toNat + 8 * c.follow.toNat)

/-- The pages of MOTION (R190, R72, R110). -/
def motionPage (s : State) : Nat → Option (List Byte)
  | 0 => some (wordInt s.mru.v ++ [flag s.mru.speedKnown, flag s.mru.atRest] ++ timerWord s.mru.settle)
  | 1 => some (slotData s .a ++ slotData s .b)
  | 2 => some (slotData s .c ++ word s.mru.latest)
  | 3 => some (wordInt s.mru.theta ++ wordInt s.mru.rate ++
      [flag s.mru.rateValid, byte s.mru.history.length, byte s.store.histDepth])
  | 4 => some (wordInt s.sju.target ++ wordInt s.sju.rawTarget ++ wordInt s.sju.fade)
  | 5 => some (wordInt s.sju.lastSent ++ wordInt s.sju.current ++
      [byteOr s.sju.row, centringByte s.sju.centring, flag (hasRecord .centre (s.cau.get .str).claims)])
  | _ => none

/-- The voted record and the basis in eight bytes (R24, R189). -/
def votedData (l : Lv) : List Byte := laneItem l.voted ++ [byte l.basis.code]

/-- A lane: freshness, heard, time since the last SETPOINT, a free value while there is none (R190; Log 7). -/
def laneData (s : State) (place : Nat) (l : LaneState) : List Byte :=
  [byte l.freshness.code, flag l.since.isSome] ++ sinceWord s.freeCount place l.since

/-- The pages of VOTE (R190, R41). -/
def votePage (s : State) : Nat → Option (List Byte)
  | 0 => some (votedData s.lv)
  | 1 => some [byte s.lv.counters.demand, byte s.lv.counters.emergency, byte s.lv.counters.angle,
      byte s.lv.counters.steer, byte s.lv.counters.level]
  | 2 => some (laneData s 0 s.lv.lanes.a ++ laneData s 1 s.lv.lanes.b)
  | _ => none

/-- One door (R190, R143). -/
def doorData (s : State) (n : Door) : List Byte :=
  [flag (s.store.doorFitted n), flag (s.dsv.contacts.get n).closed, byte (s.dsv.contacts.get n).run,
   byte (s.dsv.reports.get n).code, flag (s.dsv.unsecured.get n), flag (s.dsv.outputs.get n)] ++
    timerWord (s.dsv.disagree.get n)

/-- The pages of DOORS (R190, R143). -/
def doorsPage (s : State) : Nat → Option (List Byte)
  | 0 => some (doorData s .d1)
  | 1 => some (doorData s .d2)
  | 2 => some (doorData s .d3)
  | 3 => some (doorData s .d4)
  | 4 => some ([flag s.dsv.since.isSome] ++ sinceWord s.freeCount 0 s.dsv.since ++ timerWord s.dsv.stale ++
      [flag s.dsv.atRest, byte s.dsv.kneel.code])
  | _ => none

/-- A pressure sample, FFFFh for none (R189). -/
def sampleWord : Option Int → List Byte
  | none => word 65535
  | some p => wordInt p

/-- A gate: open 0, closed 1, FFh none (Log 14). -/
def gateByte : Option Bool → Byte
  | none => 255
  | some true => 0
  | some false => 1

/-- A corner's first page (R190). -/
def cornerData (c : CornerState) : List Byte :=
  [byte c.valve.code] ++ heightWord c.height ++ [byte (holderCode c.holder)] ++ setpointWord c.effective ++
    [flag c.nodeLost]

/-- A corner's timers (R190). -/
def cornerTimers (c : CornerState) : List Byte :=
  [match c.persist with
    | some (d, _) => byte d.code
    | none => 0] ++ timerWord (c.persist.map Prod.snd) ++ timerWord c.valveRun

/-- The pages of LEVEL from 12 on (R190, R93, R128). -/
def levelTail (s : State) : Nat → Option (List Byte)
  | 12 => some (wordInt s.lku.hLane ++ [cornerSet s.store.group, byte s.lku.kneel.code] ++ timerWord s.lku.kneelTimer)
  | 13 => some (sampleWord s.bau.samples.al ++ sampleWord s.bau.samples.ar ++ sampleWord s.bau.samples.bl ++
      sampleWord s.bau.samples.br)
  | 14 => some (sampleWord s.bau.samples.cl ++ sampleWord s.bau.samples.cr ++
      [gateByte s.bau.gates.a, gateByte s.bau.gates.b, gateByte s.bau.gates.c])
  | 15 => some (wordInt s.bau.load.a ++ wordInt s.bau.load.b ++ wordInt s.bau.load.c ++
      [axleSet s.bau.lost, axleSet s.bau.saturated])
  | 16 => some [flag s.bau.floor]
  | _ => none

/-- The pages of LEVEL (R190). -/
def levelPage (s : State) (n : Nat) : Option (List Byte) :=
  if n < 12 then
    match cornerOfNo (n / 2) with
    | some k => some (if n % 2 = 0 then cornerData (s.lku.corners.get k) else cornerTimers (s.lku.corners.get k))
    | none => none
  else levelTail s n

/-- One node (R190). The follow count of a joint or level node stays the 0 of R59, since no rule steps it (R53). -/
def nodeData (s : State) (n : Node) : List Byte :=
  [byte (s.flc.nodes.get n).state.code, byte (s.flc.nodes.get n).misses, byte (s.flc.nodes.get n).lastCode,
   byte (s.flc.nodes.get n).follow] ++ wordInt (s.flc.nodes.get n).m1 ++ wordInt (s.flc.nodes.get n).m2

/-- The pages of NODES (R190). -/
def nodesPage (s : State) (n : Nat) : Option (List Byte) :=
  match nodeOfNo n with
  | some x => some (nodeData s x)
  | none =>
    if n = 11 then some (word s.flc.round ++
      [byte s.flc.test.result.code, byte (nodeNo s.flc.test.node)] ++ word s.flc.test.pattern.toNat ++
      [byte s.flc.test.count, byte (s.flc.test.mismatch.getD 0)])
    else if n = 12 then some [byte s.flc.test.sent, byte s.flc.test.received]
    else none

/-- A pairing window: lane (0 closed, 1 A, 2 B) and remaining time (R190). -/
def windowData : Option Opened → List Byte
  | none => [0] ++ timerWord none
  | some w => [if w.lane = .a then 1 else 2] ++ timerWord (some w.remaining)

/-- The armed set: bits 0 to 3 F0 to F3, bits 4 to 15 P0 to P11 (R190). -/
def armedSet (s : State) : Nat :=
  (Entry.all.map fun e => if armed s.store s.mc.locked e then 2 ^ entryBit e else 0).sum

/-- The pages of MODE (R190, R185). -/
def modePage (s : State) : Nat → Option (List Byte)
  | 0 => some ([byte s.mode.code, flag s.mc.locked] ++ word s.store.digest.toNat ++ timerWord s.mc.ready.a ++
      timerWord s.mc.ready.b)
  | 1 => some (windowData s.mc.standbyWin ++ windowData s.mc.resetWin ++
      [byte s.mc.resetMode.code, byte s.mc.resetCause.code])
  | 2 => some (word (armedSet s) ++ word s.ict.truth.toNat)
  | _ => none

/-- The two pages of a port's queue (R190). -/
def portPage (p : PortState) (odd : Bool) : List Byte :=
  if odd then ((p.queue.map fun (n : Notice) => byte n.kindNo) ++ List.replicate 8 255).take 8
  else [byte p.queue.length, flag p.lost, flag p.alertLow]

/-- The pages of PORT: 2p and 2p + 1 for port p (R190). -/
def portsPage (s : State) : Nat → Option (List Byte)
  | 0 => some (portPage s.mpi.a false)
  | 1 => some (portPage s.mpi.a true)
  | 2 => some (portPage s.mpi.b false)
  | 3 => some (portPage s.mpi.b true)
  | 4 => some (portPage s.mpi.d false)
  | 5 => some (portPage s.mpi.d true)
  | _ => none

/-- A page of a selector: "A selector above 6, or a page beyond the last listed for its selector, is answered
REFUSED_ARG" (R190). -/
def statePage (s : State) (selector page : Nat) : Option (List Byte) :=
  match selector with
  | 0 => motionPage s page
  | 1 => votePage s page
  | 2 => doorsPage s page
  | 3 => levelPage s page
  | 4 => nodesPage s page
  | 5 => modePage s page
  | 6 => portsPage s page
  | _ => none

/-- Group 0 of the capture record (R170). -/
def captureHead (f : Fu) : List Byte :=
  match f.capture with
  | some c => [1, flag f.captureMultiple, byte c.kind.no, byte c.source.code, byte c.mode.code]
  | none => [0, flag f.captureMultiple, 255, 255, 255]

/-- The affected channel, its holder and effective setpoint; a two-byte none is free (R170; Log 7). -/
def affectedData (s : State) : Option Affected → List Byte
  | some a => [byte (chanNo a.channel), byte (holderCode a.holder)] ++ setpointWord a.effective
  | none => [255, 255] ++ freeWordBytes s 0

/-- Groups 1 to 3 of a full capture record (R170). -/
def captureGroup (s : State) (c : Capture) : Nat → List Byte
  | 1 => wordInt c.v ++ [flag c.speedKnown, flag c.atRest] ++ wordInt c.theta
  | 2 => affectedData s c.affected
  | _ => [byte c.codes.toNat]

/-- READ_CAPTURE (R170). -/
def captureReply (s : State) (g : Nat) : Reply :=
  if g = 0 then ⟨.ok, captureHead s.fu⟩
  else if 3 < g then ⟨.refusedArg, []⟩
  else match s.fu.capture with
    | some c => ⟨.ok, captureGroup s c g⟩
    | none => ⟨.noData, []⟩

/-- A group of the log entry (R171). -/
def logGroup (l : LogEntry) (g : Nat) : List Byte :=
  if g = 2 then [byte l.origin.code, byteOr (l.channel.map chanNo), byte l.item.kind.code]
  else (l.item.bytes.drop (8 * (g - 3))).take 8

/-- READ_FAULTS (R171). -/
def faultsReply (s : State) (g : Nat) : Reply :=
  if g = 0 then
    ⟨.ok, set3 s.fu.status.toNat ++ [flag s.fu.multiCorr, flag s.fu.multiUncorr, flag s.fu.captureMultiple,
      flag s.store.promote]⟩
  else if g = 1 then
    ⟨.ok, [byteOr (s.fu.idCorr.map FaultSource.code), byteOr (s.fu.idUncorr.map FaultSource.code),
      byteOr (s.fu.log.map fun l => l.kind.no)]⟩
  else if 5 < g then ⟨.refusedArg, []⟩
  else match s.fu.log with
    | some l => ⟨.ok, logGroup l g⟩
    | none => ⟨.noData, []⟩

end Sys2Proof.Machine
end

