-- ==== Sys2Proof/Machine/ReadCommands.lean ====
section
/-! DEFINITION. The meanings of NOP and of the requests that read. -/

namespace Sys2Proof.Machine

/-- A meaning that goes on. -/
def goes (s : State) : Host.Outcome State Fault Refusal := .next s

/-- NOP: "answered OK with data 00h" (R189). -/
def execNop (p : Port) (r : Byte) (s : State) : Host.Outcome State Fault Refusal :=
  goes (request p r 0x00 allPorts (fun t => (t, some ⟨.ok, []⟩)) s)

/-- The owner's part of READ_NOTICE (R193). -/
def ownReadNotice (p : Port) (s : State) : State × Option Reply :=
  match (s.mpi.get p).queue with
  | [] => refuse .noData s
  | n :: _ =>
    ({ s with mpi := s.mpi.set p (popNotice (s.mpi.get p)) }, some ⟨.ok, byte n.kindNo :: n.payload⟩)

/-- READ_NOTICE (R193). -/
def execReadNotice (p : Port) (r : Byte) (s : State) : Host.Outcome State Fault Refusal :=
  goes (request p r 0x01 allPorts (ownReadNotice p) s)

/-- The answer of READ_CLAIM (R23). -/
def claimReply (channel index : Byte) (s : State) : Reply :=
  match channelOfByte channel with
  | none => ⟨.refusedArg, []⟩
  | some c =>
    if 8 ≤ index.toNat then ⟨.refusedArg, []⟩
    else match (s.cau.get c).claims[index.toNat]? with
      | some x => ⟨.ok, claimData x index.toNat⟩
      | none => ⟨.noData, []⟩

/-- READ_CLAIM (R23). -/
def execReadClaim (p : Port) (r : Byte) (channel index : Byte) (s : State) : Host.Outcome State Fault Refusal :=
  goes (request p r 0x02 allPorts (fun t => (t, some (claimReply channel index t))) s)

/-- The answer of READ_STATE (R190). -/
def stateReply (selector page : Byte) (s : State) : Reply :=
  match statePage s selector.toNat page.toNat with
  | some d => ⟨.ok, d⟩
  | none => ⟨.refusedArg, []⟩

/-- READ_STATE (R190). It changes nothing but the counter of the free values (Log 7). -/
def execReadState (p : Port) (r : Byte) (selector page : Byte) (s : State) : Host.Outcome State Fault Refusal :=
  goes (request p r 0x03 allPorts (fun t => (drawFree t, some (stateReply selector page t))) s)

/-- The answer of CONFIG_READ (R180). -/
def configReply (item : Byte) (s : State) : Reply :=
  if itemHeld item.toNat then ⟨.ok, s.store.bytes item.toNat⟩ else ⟨.refusedArg, []⟩

/-- CONFIG_READ (R180). -/
def execConfigRead (p : Port) (r : Byte) (item : Byte) (s : State) : Host.Outcome State Fault Refusal :=
  goes (request p r 0x12 lanePorts (fun t => (t, some (configReply item t))) s)

/-- READ_CAPTURE (R170). It changes nothing but the counter of the free values (Log 7). -/
def execReadCapture (p : Port) (r : Byte) (group : Byte) (s : State) : Host.Outcome State Fault Refusal :=
  goes (request p r 0x17 lanePorts (fun t => (drawFree t, some (captureReply t group.toNat))) s)

/-- READ_FAULTS (R171). -/
def execReadFaults (p : Port) (r : Byte) (group : Byte) (s : State) : Host.Outcome State Fault Refusal :=
  goes (request p r 0x18 lanePorts (fun t => (t, some (faultsReply t group.toNat))) s)

end Sys2Proof.Machine
end

