-- ==== Sys2Proof/Machine/LaneCommands.lean ====
section
/-! DEFINITION. The meanings of the lane requests that change state. -/

namespace Sys2Proof.Machine

/-- The owner's part of SETPOINT (R24). -/
def ownSetpoint (x : Lane) (sp : LaneSetpoint) (s : State) : State × Option Reply :=
  if s.mode.operating then
    (complete (takeSetpoint x sp s),
      some ⟨.ok, votedData (lvVoted s.store x (lvStored s.store x sp s.lv))⟩)
  else refuse .refusedState s

/-- SETPOINT (R24 to R37). -/
def execSetpoint (p : Port) (r : Byte) (d : Word) (e : Byte) (a : Word) (st lv : Byte) (s : State) :
    Host.Outcome State Fault Refusal :=
  goes (request p r 0x10 lanePorts (ownSetpoint (laneOfPort p) (storedSetpoint d e a st lv)) s)

/-- The owner's part of CONFIG_WRITE, judged in the order of R180. -/
def ownConfigWrite (item v0 v1 v2 : Byte) (s : State) : State × Option Reply :=
  if s.mode ≠ .config then refuse .refusedState s
  else if !itemHeld item.toNat then refuse .refusedArg s
  else if s.mc.locked then refuse .refusedLocked s
  else match s.store.write item.toNat v0 v1 v2 with
    | none => refuse .refusedArg s
    | some st => (complete (takeWrite item.toNat st s), some ⟨.ok, st.bytes item.toNat⟩)

/-- CONFIG_WRITE (R180). -/
def execConfigWrite (p : Port) (r : Byte) (item v0 v1 v2 : Byte) (s : State) : Host.Outcome State Fault Refusal :=
  goes (request p r 0x11 lanePorts (ownConfigWrite item v0 v1 v2) s)

/-- A matching ENTER_RUN from lane `x` (R182, R183; Log 26). -/
def matchRun (x : Lane) (s : State) : State × Option Reply :=
  match s.mc.ready.get (otherLane x) with
  | none => ({ s with mc := { s.mc with ready := s.mc.ready.set x (some readyTime) } }, some ⟨.ok, []⟩)
  | some _ =>
    match validation s with
    | some (c, n) =>
      ({ s with mc := { s.mc with ready := ⟨none, none⟩ } }, some ⟨.refusedState, [byte c, byte n]⟩)
    | none => (complete (passRun s), some ⟨.ok, []⟩)

/-- The owner's part of ENTER_RUN (R182). -/
def ownEnterRun (x : Lane) (digest : Word) (s : State) : State × Option Reply :=
  if s.mode = .config ∨ s.mode = .standby then
    if s.store.digest = digest then matchRun x s
    else (s, some ⟨.refusedDigest, word s.store.digest.toNat⟩)
  else refuse .refusedState s

/-- ENTER_RUN (R182, R183). -/
def execEnterRun (p : Port) (r : Byte) (digest : Word) (s : State) : Host.Outcome State Fault Refusal :=
  goes (request p r 0x13 lanePorts (ownEnterRun (laneOfPort p) digest) s)

/-- A pairing window after a request of its kind with its conditions met, and whether the pair is complete (R175). -/
def pairWindow (x : Lane) : Option Opened → Option Opened × Bool
  | none => (some ⟨x, windowTime⟩, false)
  | some w => if w.lane = x then (some ⟨x, windowTime⟩, false) else (none, true)

/-- MODE_REQUEST STANDBY in RUN or DEGRADED (R175, R176). -/
def requestStandby (x : Lane) (s : State) : State × Option Reply :=
  if !standbyConditions s then
    ({ s with mc := { s.mc with standbyWin := none } }, some ⟨.refusedState, []⟩)
  else if (pairWindow x s.mc.standbyWin).2 then
    (complete (setMode .standby { s with mc := { s.mc with standbyWin := none } }), some ⟨.ok, []⟩)
  else ({ s with mc := { s.mc with standbyWin := (pairWindow x s.mc.standbyWin).1 } }, some ⟨.ok, []⟩)

/-- The owner's part of MODE_REQUEST: the table of R174, row by row. -/
def ownModeRequest (x : Lane) (code : Byte) (s : State) : State × Option Reply :=
  match Mode.ofCode code.toNat with
  | none => refuse .refusedArg s
  | some .powerup => (s, some ⟨.ok, []⟩)
  | some .run => (s, some ⟨.ok, []⟩)
  | some .degraded => (s, some ⟨.ok, []⟩)
  | some .safeStop => (s, some ⟨.ok, []⟩)
  | some .service =>
    if s.mode = .service then (s, some ⟨.ok, []⟩)
    else if s.mode = .config then (complete (setMode .service s), some ⟨.ok, []⟩)
    else refuse .refusedState s
  | some .config =>
    if s.mode = .config then (s, some ⟨.ok, []⟩)
    else if s.mode = .service then (complete (setMode .config s), some ⟨.ok, []⟩)
    else refuse .refusedState s
  | some .standby =>
    if s.mode = .standby then (s, some ⟨.ok, []⟩)
    else if s.mode = .run ∨ s.mode = .degraded then requestStandby x s
    else refuse .refusedState s

/-- MODE_REQUEST (R174 to R176). -/
def execModeRequest (p : Port) (r : Byte) (mode : Byte) (s : State) : Host.Outcome State Fault Refusal :=
  goes (request p r 0x14 lanePorts (ownModeRequest (laneOfPort p) mode) s)

/-- The part after the re-admission that a RECOVER asks for, with what it announced taken (R49; Log 12). -/
def recoverJudged (s : State) : State := settle settleLimit (readmit s)

/-- The owner's part of RECOVER (R179). -/
def ownRecover (s : State) : State × Option Reply :=
  if s.mode ≠ .degraded then refuse .refusedState s
  else match recoverUnmet (recoverJudged s) with
    | some n => (complete (recoverJudged s), some ⟨.refusedState, [byte n]⟩)
    | none => (complete (setMode .run (recoverJudged s)), some ⟨.ok, []⟩)

/-- RECOVER (R179). -/
def execRecover (p : Port) (r : Byte) (s : State) : Host.Outcome State Fault Refusal :=
  goes (request p r 0x15 lanePorts ownRecover s)

/-- FU after ACK_CAPTURE (R169). -/
def fuAcked (f : Fu) : Fu := { f with capture := none, captureMultiple := false }

/-- ACK_CAPTURE (R169). -/
def execAckCapture (p : Port) (r : Byte) (s : State) : Host.Outcome State Fault Refusal :=
  goes (request p r 0x16 lanePorts (fun t => ({ t with fu := fuAcked t.fu }, some ⟨.ok, []⟩)) s)

/-- FU after a CLEAR_FAULT of a set of kinds (R167). -/
def fuCleared (st : Store) (ks : BitVec 24) (f : Fu) : Fu :=
  let g := { f with status := f.status &&& ~~~ ks }
  { g with
    log := match f.log with
      | some l => if ks.getLsbD l.kind.no then none else some l
      | none => none
    multiCorr := f.multiCorr && classSet st g true
    multiUncorr := f.multiUncorr && classSet st g false
    idCorr := if classSet st g true then f.idCorr else none
    idUncorr := if classSet st g false then f.idUncorr else none }

/-- The events of a CLEAR_FAULT: SJU is told when FOLLOW_ERROR is in the set (R167, R102). -/
def clearedEvents (ks : BitVec 24) : List Ev := if ks.getLsbD 10 then [.followMark false] else []

/-- The owner's part of CLEAR_FAULT (R167): "An empty set is answered OK and changes nothing." A REFUSED_ARG answers with
data 00h and not with the set of statuses: the model's choice (Log 36). -/
def ownClearFault (ks : BitVec 24) (s : State) : State × Option Reply :=
  if ks.toNat / 2097152 ≠ 0 then refuse .refusedArg s
  else if ks = 0 then (s, some ⟨.ok, set3 s.fu.status.toNat⟩)
  else
    (complete (announce (clearedEvents ks) { s with fu := fuCleared s.store ks s.fu }),
      some ⟨.ok, set3 (fuCleared s.store ks s.fu).status.toNat⟩)

/-- CLEAR_FAULT (R167). -/
def execClearFault (p : Port) (r : Byte) (ks : BitVec 24) (s : State) : Host.Outcome State Fault Refusal :=
  goes (request p r 0x19 lanePorts (ownClearFault ks) s)

/-- The owner's part of WARM_RESET (R175, R184). The completing request's answer is lost with the previous-frame result
(R194; Log 13). -/
def ownWarmReset (x : Lane) (s : State) : State × Option Reply :=
  if !resetConditions s then
    ({ s with mc := { s.mc with resetWin := none } }, some ⟨.refusedState, []⟩)
  else if (pairWindow x s.mc.resetWin).2 then (warmReset .request s, none)
  else ({ s with mc := { s.mc with resetWin := (pairWindow x s.mc.resetWin).1 } }, some ⟨.ok, []⟩)

/-- WARM_RESET (R184). -/
def execWarmReset (p : Port) (r : Byte) (s : State) : Host.Outcome State Fault Refusal :=
  goes (request p r 0x1A lanePorts (ownWarmReset (laneOfPort p)) s)

/-- The record of a self-test just taken: "The count is stored clamped to 12 to 255" (R57). -/
def testTaken (n : Node) (pattern : Word) (count : Byte) : SelfTest :=
  ⟨.running, n, pattern, max 12 count.toNat, 0, 0, none⟩

/-- The owner's part of TEST_FIELD (R57). -/
def ownTestField (node : Byte) (pattern : Word) (count : Byte) (s : State) : State × Option Reply :=
  if s.mode ≠ .service then refuse .refusedState s
  else if s.flc.test.result = .running then refuse .refusedState s
  else match fittedNode s.store node with
    | none => refuse .refusedArg s
    | some n =>
      (withFlc { s.flc with test := testTaken n pattern count, testLive := false, abortDue := false } s,
        some ⟨.ok, []⟩)

/-- TEST_FIELD (R57). -/
def execTestField (p : Port) (r : Byte) (node : Byte) (pattern : Word) (count : Byte) (s : State) :
    Host.Outcome State Fault Refusal :=
  goes (request p r 0x1B lanePorts (ownTestField node pattern count) s)

end Sys2Proof.Machine
end

