-- ==== Sys2Proof/Machine/DoorCommands.lean ====
section
/-! DEFINITION. The meanings of the door-port requests. -/

namespace Sys2Proof.Machine

/-- The set of doors whose debounced contact is CLOSED. -/
def closedDoors (d : Dsv) : PerDoor Bool := .of fun n => (d.contacts.get n).closed

/-- The response of DOOR_STATUS, each "as it stands after the event" (R131; Log 10). -/
def statusData (d : Dsv) : List Byte :=
  [doorSet (closedDoors d), doorSet d.unsecured, doorSet d.outputs, flag d.atRest, byte d.kneel.code]

/-- The owner's part of DOOR_STATUS (R131). -/
def ownDoorStatus (reports : PerDoor Byte) (s : State) : State × Option Reply :=
  (complete (doorStatusTaken reports s), some ⟨.ok, statusData (complete (doorStatusTaken reports s)).dsv⟩)

/-- DOOR_STATUS (R131). -/
def execDoorStatus (p : Port) (r : Byte) (reports : PerDoor Byte) (s : State) : Host.Outcome State Fault Refusal :=
  goes (request p r 0x20 doorPort (ownDoorStatus reports) s)

/-- Holder code and effective setpoint of a channel (R135). -/
def holderData (s : State) (c : Channel) : List Byte :=
  byte (holderCode (s.holder c)) :: setpointWord (s.effective c)

/-- A door-port request that places or withdraws: answered with the lists after the request (R135; Log 10). -/
def doorAnswered (data : State → List Byte) (s : State) : State × Option Reply :=
  (complete s, some ⟨.ok, data (complete s)⟩)

/-- The owner's part of DOOR_OPEN and DOOR_CLOSE: the modes and the door judged in the order of R135. A refusal answers
with data 00h: the model's choice (Log 33). -/
def ownDoor (door : Byte) (act : Door → State → State) (s : State) : State × Option Reply :=
  if !s.mode.operating then refuse .refusedState s
  else match fittedDoor s.store door with
    | none => refuse .refusedArg s
    | some n => doorAnswered (fun t => holderData t (.drel n)) (act n s)

/-- DOOR_OPEN (R136). -/
def execDoorOpen (p : Port) (r : Byte) (door : Byte) (s : State) : Host.Outcome State Fault Refusal :=
  goes (request p r 0x21 doorPort (ownDoor door fun n => placeClaim (.doorOpen n) (.drel n)) s)

/-- DOOR_CLOSE (R136). -/
def execDoorClose (p : Port) (r : Byte) (door : Byte) (s : State) : Host.Outcome State Fault Refusal :=
  goes (request p r 0x22 doorPort (ownDoor door fun n => withdrawClaim (.doorOpen n) (.drel n)) s)

/-- The channels of S_DOOR_HALT (R137), in ascending order: the model's choice (Log 35). -/
def haltChannels : List Channel := [.brk .b, .brk .c]

/-- The response of HALT_ON and HALT_OFF (R135). -/
def haltData (s : State) : List Byte := holderData s (.brk .b) ++ holderData s (.brk .c)

/-- The owner's part of a request taken in the operating modes alone (R135). A refusal answers with data 00h: the model's
choice (Log 33). -/
def ownOperating (data : State → List Byte) (act : State → State) (s : State) : State × Option Reply :=
  if !s.mode.operating then refuse .refusedState s else doorAnswered data (act s)

/-- HALT_ON (R137). -/
def execHaltOn (p : Port) (r : Byte) (s : State) : Host.Outcome State Fault Refusal :=
  goes (request p r 0x23 doorPort (ownOperating haltData (placeClaims .doorHalt haltChannels)) s)

/-- HALT_OFF (R137). -/
def execHaltOff (p : Port) (r : Byte) (s : State) : Host.Outcome State Fault Refusal :=
  goes (request p r 0x24 doorPort (ownOperating haltData (withdrawClaims .doorHalt haltChannels)) s)

/-- The kneel-group channels (R138), in ascending order: the model's choice (Log 35). -/
def groupChannels (st : Store) : List Channel := st.groupList.map Channel.lvl

/-- The corners of the group that S_DOOR_KNEEL holds. -/
def kneelHeld (s : State) : PerCorner Bool :=
  .of fun k => s.store.inGroup k && s.holder (.lvl k) == some .doorKneel

/-- The response of KNEEL_ON and KNEEL_OFF: holders of the group, FFh beyond it, and the set S_DOOR_KNEEL holds (R135). -/
def kneelData (s : State) : List Byte :=
  ((s.store.groupList.map fun k => byte (holderCode (s.holder (.lvl k)))) ++ List.replicate 4 255).take 4 ++
    [cornerSet (kneelHeld s)]

/-- KNEEL_ON (R138). -/
def execKneelOn (p : Port) (r : Byte) (s : State) : Host.Outcome State Fault Refusal :=
  goes (request p r 0x25 doorPort
    (ownOperating kneelData fun t => placeClaims .doorKneel (groupChannels t.store) t) s)

/-- KNEEL_OFF (R138). -/
def execKneelOff (p : Port) (r : Byte) (s : State) : Host.Outcome State Fault Refusal :=
  goes (request p r 0x26 doorPort
    (ownOperating kneelData fun t => withdrawClaims .doorKneel (groupChannels t.store) t) s)

end Sys2Proof.Machine
end

