-- ==== Sys2Proof/Machine/EventCommands.lean ====
section
/-! DEFINITION. The meanings of the frame events, resets, timer expiries and field link events. -/

namespace Sys2Proof.Machine

/-! Frames -/

/-- The kind byte of a discarded frame: "the first byte received, or 00h when fewer than 8 clocks arrived" (R186). -/
def frameKind (clocks : Nat) (first : Byte) : Byte := if clocks < 8 then 0 else first

/-- The port's code in a log item, as READ_STATE(PORT) numbers ports (Log 14). -/
def portNo : Port → Nat
  | .a => 0
  | .b => 1
  | .d => 2

/-- The log item of LINK_FRAME: port, failure (COUNT 0, CRC 1), clock count, kind byte (10.1, note 1; Log 14). -/
def frameItem (p : Port) (clocks : Nat) (first : Byte) : List Byte :=
  [byte (portNo p), if clocks = 96 then 1 else 0] ++ word (min 65535 clocks) ++ [frameKind clocks first]

/-- BAD_FRAME: the frame is discarded, the previous-frame result becomes BAD_FRAME, and LINK_FRAME is raised (R186). -/
def execBadFrame (p : Port) (clocks : Nat) (first : Byte) (s : State) : Host.Outcome State Fault Refusal :=
  if isAbandoned p s then goes s
  else goes (complete (detect .linkFrame (.port p) none (frameItem p clocks first)
    (answer p (frameKind clocks first) ⟨.badFrame, []⟩ (closeTransfer p s))))

/-- The codes of the requests (R189). -/
def requestCodes : List Nat :=
  [0x00, 0x01, 0x02, 0x03, 0x10, 0x11, 0x12, 0x13, 0x14, 0x15, 0x16, 0x17, 0x18, 0x19, 0x1A, 0x1B, 0x20, 0x21, 0x22,
   0x23, 0x24, 0x25, 0x26]

/-- UNKNOWN_KIND_FRAME: POWERUP is judged first, then the kind (R188). -/
def execUnknownKindFrame (p : Port) (kind : Byte) (s : State) : Host.Outcome State Fault Refusal :=
  if requestCodes.contains kind.toNat then .refused .kindNamesARequest
  else if isAbandoned p s then goes s
  else if s.mode = .powerup then goes (answer p kind ⟨.refusedState, []⟩ (closeTransfer p s))
  else goes (answer p kind ⟨.unknownKind, []⟩ (closeTransfer p s))

/-- Bytes 0 to 10 of the response that a transfer carries (R187, 12.1). -/
def responseBody (m : Mode) (q : PortState) : List Byte :=
  [q.answer.kind, byte q.answer.result.code] ++ q.answer.data ++ [flagByte m q]

/-- The twelve response bytes (R187). -/
def responseBytes (m : Mode) (q : PortState) : List Byte := responseBody m q ++ [portCrc (responseBody m q)]

/-- CSN_FALLING_EDGE: the response of the transfer is fixed (R187). -/
def execCsnFallingEdge (p : Port) (s : State) : Host.Outcome State Fault Refusal :=
  goes { s with mpi := s.mpi.set p { s.mpi.get p with
    transfer := .active (responseBytes s.mode (s.mpi.get p)) } }

/-! Resets -/

/-- RSTN_WARM_RESET: "taken at the falling edge of RSTn, in every mode but POWERUP" (R184, R173). -/
def execRstnWarmReset (s : State) : Host.Outcome State Fault Refusal :=
  if s.mode = .powerup then goes s else goes (warmReset .pin s)

/-- POWER_ON_RESET (R185). -/
def execPowerOnReset (s : State) : Host.Outcome State Fault Refusal := goes (powerOn s)

/-- The entry to CONFIG that completes a power-on reset raises no MODE_CHANGED (R173). -/
def enterConfig (s : State) : State :=
  { s with mc := mcEnter .config s.mc, inFlight := s.inFlight ++ [.mode s.mode .config] }

/-- INITIALISATION_COMPLETE (R173). Outside POWERUP there is no initialisation to complete (Log 4). -/
def execInitialisationComplete (s : State) : Host.Outcome State Fault Refusal :=
  if s.mode = .powerup then goes (complete (enterConfig s)) else goes s

/-! Timer expiries. Each acts when its timer runs (Log 3, Log 4). -/

/-- LANE_STAGE1_EXPIRY (R26). -/
def execLaneStage1Expiry (l : Lane) (s : State) : Host.Outcome State Fault Refusal := goes (complete (stage1Expiry l s))

/-- LANE_STAGE2_EXPIRY (R27, R28). -/
def execLaneStage2Expiry (l : Lane) (s : State) : Host.Outcome State Fault Refusal := goes (complete (stage2Expiry l s))

/-- The claim notice of an expiry (R18, R21). -/
def expiredNotices (c : Channel) (src : Source) : List Notice :=
  if isDoorSource src then [.claimExpired (channelBit c) src] else []

/-- Expiry of a hold limit: the record leaves the list (R18). -/
def holdExpiry (c : Channel) (src : Source) (s : State) : State :=
  if holdRuns src (s.cau.get c).claims then
    withdrawClaim src c { s with mpi := offerMany s.store (expiredNotices c src) s.mpi }
  else s

/-- HOLD_LIMIT_EXPIRY (R18). -/
def execHoldLimitExpiry (c : Channel) (src : Source) (s : State) : Host.Outcome State Fault Refusal :=
  goes (complete (holdExpiry c src s))

/-- FIELD_CYCLE_EXPIRY (R43). -/
def execFieldCycleExpiry (s : State) : Host.Outcome State Fault Refusal := goes (complete (cycleExpiry s))

/-- SETTLE_TIMER_EXPIRY (R64). -/
def execSettleTimerExpiry (s : State) : Host.Outcome State Fault Refusal := goes (complete (settleExpiry s))

/-- PERSISTENCE_TIMER_EXPIRY (R116). -/
def execPersistenceTimerExpiry (k : Corner) (s : State) : Host.Outcome State Fault Refusal :=
  goes (complete (persistExpiry k s))

/-- VALVE_RUN_TIMER_EXPIRY (R118). -/
def execValveRunTimerExpiry (k : Corner) (s : State) : Host.Outcome State Fault Refusal :=
  goes (complete (valveRunExpiry k s))

/-- KNEEL_TIMER_EXPIRY (R122). -/
def execKneelTimerExpiry (s : State) : Host.Outcome State Fault Refusal := goes (complete (kneelExpiry s))

/-- DOOR_STALENESS_EXPIRY (R132). A command in the queue is an event as it is taken: an expiry behind a DOOR_STATUS is one
of the restarted timer, and the expiry that "does not happen" is no command (Log 4). -/
def execDoorStalenessExpiry (s : State) : Host.Outcome State Fault Refusal := goes (complete (staleExpiry s))

/-- DOOR_DISAGREE_EXPIRY (R134). -/
def execDoorDisagreeExpiry (n : Door) (s : State) : Host.Outcome State Fault Refusal :=
  goes (complete (disagreeExpiry n s))

/-- PAIRING_WINDOW_EXPIRY: "the window closes and nothing is raised" (R175). -/
def execPairingWindowExpiry (w : Window) (s : State) : Host.Outcome State Fault Refusal :=
  match w with
  | .standby => goes { s with mc := { s.mc with standbyWin := none } }
  | .warmReset => goes { s with mc := { s.mc with resetWin := none } }

/-- A ready mark runs out (R182). -/
def markLapse (l : Lane) (s : State) : State :=
  match s.mc.ready.get l with
  | some _ => offer (.enterRunLapsed l) { s with mc := { s.mc with ready := s.mc.ready.set l none } }
  | none => s

/-- READY_MARK_LAPSE (R182). -/
def execReadyMarkLapse (l : Lane) (s : State) : Host.Outcome State Fault Refusal := goes (markLapse l s)

/-! Contacts -/

/-- One sample of the four inputs: "takes each sample as one event at its contact" (R130; Log 21). -/
def sampleContacts (closed : PerDoor Bool) (s : State) : State :=
  Door.all.foldl (fun s n => settle settleLimit (sampleContact n (closed.get n) s)) s

/-- CONTACT_SAMPLE: "In POWERUP no sample is taken" (R130). -/
def execContactSample (closed : PerDoor Bool) (s : State) : Host.Outcome State Fault Refusal :=
  if s.mode = .powerup then goes s else goes (complete (sampleContacts closed s))

/-! Field link events. Each acts when a transaction of its kind is in flight (Log 4). -/

/-- FIELD_RESPONSE_RECEIVED (R45 to R53, R57). -/
def execFieldResponseReceived (code : Fin 8) (m1 m2 : Word) (s : State) : Host.Outcome State Fault Refusal :=
  goes (complete (fieldResponse code.val m1 m2 s))

/-- RESPONSE_WINDOW_END (R45, R47). -/
def execResponseWindowEnd (k : MissKind) (s : State) : Host.Outcome State Fault Refusal :=
  goes (complete (windowEnd k s))

/-- SHUTDOWN_ACK_RECEIVED (R55). -/
def execShutdownAckReceived (code : Fin 8) (s : State) : Host.Outcome State Fault Refusal :=
  goes (complete (shutdownAck code s))

/-- T_ACK_EXPIRY (R55). -/
def execTAckExpiry (k : MissKind) (s : State) : Host.Outcome State Fault Refusal := goes (complete (ackExpiry k s))

/-! The tick of an empty queue (Log 3) -/

/-- One ms off a timer, not below 0. -/
def down : Option Nat → Option Nat := Option.map (· - 1)

/-- One ms onto an age, "held at 65,535 once it passes that value" (R41, R143). -/
def up : Option Nat → Option Nat := Option.map fun n => min 65535 (n + 1)

def tickLaneTimer : LaneTimer → LaneTimer
  | .stopped => .stopped
  | .stage1 n => .stage1 (n - 1)
  | .stage2 n => .stage2 (n - 1)

def tickLane (l : LaneState) : LaneState := { l with since := up l.since, timer := tickLaneTimer l.timer }

def tickHold : HoldTimer → HoldTimer
  | .running n => .running (n - 1)
  | t => t

def tickList (cl : ClaimList) : ClaimList :=
  { cl with claims := cl.claims.map fun x => { x with hold := tickHold x.hold } }

def tickCorner (c : CornerState) : CornerState :=
  { c with persist := c.persist.map fun x => (x.1, x.2 - 1), valveRun := down c.valveRun }

def tickWindow : Option Opened → Option Opened := Option.map fun w => { w with remaining := w.remaining - 1 }

/-- 1 ms passes: every running timer counts down and every age up (Log 3). -/
def tickTimers (s : State) : State :=
  { s with
    lv := { s.lv with lanes := .of fun l => tickLane (s.lv.lanes.get l) }
    cau := .of fun c => tickList (s.cau.get c)
    lku := { s.lku with
      corners := .of fun k => tickCorner (s.lku.corners.get k)
      kneelTimer := down s.lku.kneelTimer }
    dsv := { s.dsv with
      disagree := .of fun n => down (s.dsv.disagree.get n)
      stale := down s.dsv.stale
      since := up s.dsv.since }
    mru := { s.mru with settle := down s.mru.settle }
    flc := { s.flc with timer := down s.flc.timer }
    mc := { s.mc with
      ready := .of fun l => down (s.mc.ready.get l)
      standbyWin := tickWindow s.mc.standbyWin
      resetWin := tickWindow s.mc.resetWin } }

/-- What the block does on an empty queue (Log 2, Log 3). -/
def tick (s : State) : State := complete (tickTimers s)

end Sys2Proof.Machine
end

