-- ==== Sys2Proof/Machine/Dispatch.lean ====
section
/-! DEFINITION. One arm per command. -/

namespace Sys2Proof.Machine

def exec (i : Instr) (s : State) : Host.Outcome State Fault Refusal :=
  match i with
  | .nop p r => Sys2Proof.Machine.execNop p r s
  | .readNotice p r => Sys2Proof.Machine.execReadNotice p r s
  | .readClaim p r channel index => Sys2Proof.Machine.execReadClaim p r channel index s
  | .readState p r selector page => Sys2Proof.Machine.execReadState p r selector page s
  | .setpoint p r demand emergency angle steer level => Sys2Proof.Machine.execSetpoint p r demand emergency angle steer level s
  | .configWrite p r item v0 v1 v2 => Sys2Proof.Machine.execConfigWrite p r item v0 v1 v2 s
  | .configRead p r item => Sys2Proof.Machine.execConfigRead p r item s
  | .enterRun p r digest => Sys2Proof.Machine.execEnterRun p r digest s
  | .modeRequest p r mode => Sys2Proof.Machine.execModeRequest p r mode s
  | .recover p r => Sys2Proof.Machine.execRecover p r s
  | .ackCapture p r => Sys2Proof.Machine.execAckCapture p r s
  | .readCapture p r group => Sys2Proof.Machine.execReadCapture p r group s
  | .readFaults p r group => Sys2Proof.Machine.execReadFaults p r group s
  | .clearFault p r kinds => Sys2Proof.Machine.execClearFault p r kinds s
  | .warmReset p r => Sys2Proof.Machine.execWarmReset p r s
  | .testField p r node pattern count => Sys2Proof.Machine.execTestField p r node pattern count s
  | .doorStatus p r reports => Sys2Proof.Machine.execDoorStatus p r reports s
  | .doorOpen p r door => Sys2Proof.Machine.execDoorOpen p r door s
  | .doorClose p r door => Sys2Proof.Machine.execDoorClose p r door s
  | .haltOn p r => Sys2Proof.Machine.execHaltOn p r s
  | .haltOff p r => Sys2Proof.Machine.execHaltOff p r s
  | .kneelOn p r => Sys2Proof.Machine.execKneelOn p r s
  | .kneelOff p r => Sys2Proof.Machine.execKneelOff p r s
  | .badFrame p clocks first => Sys2Proof.Machine.execBadFrame p clocks first s
  | .rstnWarmReset => Sys2Proof.Machine.execRstnWarmReset s
  | .powerOnReset => Sys2Proof.Machine.execPowerOnReset s
  | .initialisationComplete => Sys2Proof.Machine.execInitialisationComplete s
  | .laneStage1Expiry l => Sys2Proof.Machine.execLaneStage1Expiry l s
  | .laneStage2Expiry l => Sys2Proof.Machine.execLaneStage2Expiry l s
  | .holdLimitExpiry c src => Sys2Proof.Machine.execHoldLimitExpiry c src s
  | .fieldCycleExpiry => Sys2Proof.Machine.execFieldCycleExpiry s
  | .fieldResponseReceived code m1 m2 => Sys2Proof.Machine.execFieldResponseReceived code m1 m2 s
  | .responseWindowEnd k => Sys2Proof.Machine.execResponseWindowEnd k s
  | .shutdownAckReceived code => Sys2Proof.Machine.execShutdownAckReceived code s
  | .tAckExpiry k => Sys2Proof.Machine.execTAckExpiry k s
  | .settleTimerExpiry => Sys2Proof.Machine.execSettleTimerExpiry s
  | .persistenceTimerExpiry k => Sys2Proof.Machine.execPersistenceTimerExpiry k s
  | .valveRunTimerExpiry k => Sys2Proof.Machine.execValveRunTimerExpiry k s
  | .kneelTimerExpiry => Sys2Proof.Machine.execKneelTimerExpiry s
  | .contactSample closed => Sys2Proof.Machine.execContactSample closed s
  | .doorStalenessExpiry => Sys2Proof.Machine.execDoorStalenessExpiry s
  | .doorDisagreeExpiry n => Sys2Proof.Machine.execDoorDisagreeExpiry n s
  | .pairingWindowExpiry w => Sys2Proof.Machine.execPairingWindowExpiry w s
  | .readyMarkLapse l => Sys2Proof.Machine.execReadyMarkLapse l s
  | .csnFallingEdge p => Sys2Proof.Machine.execCsnFallingEdge p s
  | .unknownKindFrame p kind => Sys2Proof.Machine.execUnknownKindFrame p kind s

end Sys2Proof.Machine
end

