-- ==== Sys2Proof/Safety.lean ====
section
/-! DEFINITION. What it means for a state to keep the laws of the part that the rules name: notice queues (R192), claim
lists (R9, R10, R16) and who may stand in them (R4, R6), brake setpoints (R82) and the halt floor (R86, R87), release
outputs (R139), the vote (R32), the mode and FATAL statuses (R165), the steer value sent with the STR_C and JNT claims
(R100), and the canonical form of the store. -/

namespace Sys2Proof.Safety

open Sys2Proof.Machine

/-- "each port's notice queue holds at most 8 notices and at most one of each kind" (R192). -/
def QueueOk (p : PortState) : Prop := p.queue.length ≤ 8 ∧ (p.queue.map Notice.kindNo).Nodup

/-- `QueueOk` on every port. -/
def QueuesOk (s : State) : Prop := ∀ p, QueueOk (s.mpi.get p)

/-- One record stands before another: by level descending, within one level by arrival stamp ascending (R9). -/
def Before (x y : Claim) : Prop := y.level < x.level ∨ (y.level = x.level ∧ x.stamp < y.stamp)

/-- The holder has its has-held mark set and no hold-limit timer (R16). -/
def HeadOk : List Claim → Prop
  | [] => True
  | x :: _ => x.hasHeld = true ∧ x.hold = .absent

/-- A claim list in order (R9), with no two claims of one source (R10), stamps within the counter (R8) and a proper
holder (R16). -/
def ListOk (cl : ClaimList) : Prop :=
  cl.claims.Pairwise Before ∧ (cl.claims.map Claim.source).Nodup ∧ (∀ x ∈ cl.claims, x.stamp ≤ cl.counter) ∧
    HeadOk cl.claims

/-- `ListOk` on every channel. -/
def ListsOk (s : State) : Prop := ∀ c, ListOk (s.cau.get c)

/-- A setpoint between 0 and 850 kPa. -/
def InBrakeDomain : Setpoint → Prop
  | .num n => 0 ≤ n ∧ n ≤ 850
  | _ => False

/-- The store's list is in canonical form. -/
def StoreOk (s : State) : Prop := storeWf s.store.items = true

/-- Every brake claim lies between 0 and 850 kPa, and the rest value H between 0 and 600 (R82, R1). -/
def BrakesOk (s : State) : Prop :=
  StoreOk s ∧ (0 ≤ s.store.haltP ∧ s.store.haltP ≤ 600) ∧
    ∀ axle, ∀ x ∈ (s.cau.get (.brk axle)).claims, InBrakeDomain x.setpoint

/-- "whenever the at-rest flag is clear, every door release output is OFF" (R139). -/
def OutputsOk (s : State) : Prop := s.mru.atRest = false → ∀ n, s.dsv.outputs.get n = false

/-- "whenever at least one lane is FRESH, the voted demand D_v is at least as large as the stored (clamped) demand of
every FRESH lane, and EMERG_v is set if any FRESH lane's emergency flag is set" (R32). -/
def VoteOk (s : State) : Prop :=
  ∀ x, (s.lv.lanes.get x).freshness = .fresh →
    (s.lv.lanes.get x).stored.demand ≤ s.lv.voted.demand ∧
      ((s.lv.lanes.get x).stored.emergency = true → s.lv.voted.emergency = true)

/-- "the mode is RUN or DEGRADED only while no fault kind of FATAL severity has its status set" (R165). -/
def FatalOk (s : State) : Prop :=
  (s.mode = .run ∨ s.mode = .degraded) → ∀ k, s.fu.has k = true → s.store.severity k ≠ .fatal

/-- "the last sent value of STR_C lie within" the steer limit, which is 20 to 200 (R100, 6.1). -/
def SentOk (s : State) : Prop :=
  StoreOk s ∧ (20 ≤ s.store.deltaMax ∧ s.store.deltaMax ≤ 200) ∧
    -s.store.deltaMax ≤ s.sju.lastSent ∧ s.sju.lastSent ≤ s.store.deltaMax

/-- The modes that only a reset or one another lead to: POWERUP, CONFIG and SERVICE (R173). -/
def Resting (s : State) : Prop := s.mode = .powerup ∨ s.mode = .config ∨ s.mode = .service

/-- Every list is empty in POWERUP, CONFIG and SERVICE (R11, R22). -/
def ListsRest (s : State) : Prop := Resting s → ∀ c, (s.cau.get c).claims = []

/-- Every record's source is eligible on its channel, a programmable entry has one only with the store locked, and a locked
store leaves each channel at most 8 eligible sources (R4, R6, R11, R147, R183), so that no list exceeds 8 (R10). -/
def EligibleOk (s : State) : Prop :=
  ListsRest s ∧ (s.mc.locked = true → ∀ c, eligibleCount s.store c ≤ 8) ∧
    ∀ c, ∀ x ∈ (s.cau.get c).claims, eligible s.store x.source c = true ∧
      ∀ k, x.source = .entry (.prog k) → s.mc.locked = true

/-- A setpoint that is a number between two bounds. -/
def Between (lo hi : Int) : Setpoint → Prop
  | .num n => lo ≤ n ∧ n ≤ hi
  | _ => False

/-- Every STR_C claim lies within the steer limit, and every JNT claim within [I_base, I_max] (R100, R1). -/
def SteerJointOk (s : State) : Prop :=
  StoreOk s ∧ ListsRest s ∧ 20 ≤ s.store.deltaMax ∧ s.store.iBase ≤ s.store.iMax ∧
    (∀ x ∈ (s.cau.get .str).claims, Between (-s.store.deltaMax) s.store.deltaMax x.setpoint) ∧
    ∀ x ∈ (s.cau.get .jnt).claims, Between s.store.iBase s.store.iMax x.setpoint

/-- A claim on BRK_B or BRK_C lies at H or above while the floor flag stands, and BAU rewrites it unless it lies there
anyway (R85, R87). -/
def ClaimFloored (s : State) (axle : Axle) (x : Claim) : Prop :=
  (s.bau.floor = true → Between s.store.haltP 850 x.setpoint) ∧
    (brakeSetpoint s.store s.bau axle x.source = none → Between s.store.haltP 850 x.setpoint)

/-- What BAU takes next of the set of UNSECURED doors: the last that waits, or the copy it holds (R86). -/
def doorsTold (held : PerDoor Bool) : List Ev → PerDoor Bool
  | [] => held
  | .doors d :: evs => doorsTold d evs
  | _ :: evs => doorsTold held evs

/-- What BAU takes next of the kneel state: the last that waits, or the copy it holds (R86). -/
def kneelTold (held : KneelState) : List Ev → KneelState
  | [] => held
  | .kneel k :: evs => kneelTold k evs
  | _ :: evs => kneelTold held evs

/-- The floor flag stands as BAU's copies give it, but for a set of doors that waits to be taken, and BAU's copies are
what DSV and LKU last announced (R86). -/
def FloorTold (s : State) : Prop :=
  doorsTold s.bau.doors s.inFlight = s.dsv.unsecured ∧ kneelTold s.bau.kneel s.inFlight = s.lku.kneel ∧
    (∀ n, s.dsv.unsecured.get n = true → s.store.doorFitted n = true) ∧
    ((∀ d, Ev.doors d ∉ s.inFlight) → s.bau.floor = floorStands s.store s.bau.doors s.bau.kneel)

/-- The halt floor: every claim on BRK_B and BRK_C is at least H while the flag stands, and the flag stands while a fitted
door is UNSECURED or the kneel state is not NORMAL, once that has been taken (R86, R87). -/
def FloorOk (s : State) : Prop :=
  StoreOk s ∧ ListsRest s ∧ (0 ≤ s.store.haltP ∧ s.store.haltP ≤ 600) ∧ 1 ≤ s.store.get 48 ∧ FloorTold s ∧
    ∀ axle, axle ≠ .a → ∀ x ∈ (s.cau.get (.brk axle)).claims, ClaimFloored s axle x

/-- "Each axle load estimate lies within [Lmin_a, Lmax_a]" (R76). -/
def LoadsOk (s : State) : Prop :=
  StoreOk s ∧ ∀ x, s.store.lMin x ≤ s.bau.load.get x ∧ s.bau.load.get x ≤ s.store.lMax x

/-- A request's port, reserved byte, kind byte and permitted ports (R189); none for the other commands. -/
def requestOf : Instr → Option (Port × Byte × Byte × (Port → Bool))
  | .nop p r => some (p, r, 0x00, allPorts)
  | .readNotice p r => some (p, r, 0x01, allPorts)
  | .readClaim p r _ _ => some (p, r, 0x02, allPorts)
  | .readState p r _ _ => some (p, r, 0x03, allPorts)
  | .setpoint p r _ _ _ _ _ => some (p, r, 0x10, lanePorts)
  | .configWrite p r _ _ _ _ => some (p, r, 0x11, lanePorts)
  | .configRead p r _ => some (p, r, 0x12, lanePorts)
  | .enterRun p r _ => some (p, r, 0x13, lanePorts)
  | .modeRequest p r _ => some (p, r, 0x14, lanePorts)
  | .recover p r => some (p, r, 0x15, lanePorts)
  | .ackCapture p r => some (p, r, 0x16, lanePorts)
  | .readCapture p r _ => some (p, r, 0x17, lanePorts)
  | .readFaults p r _ => some (p, r, 0x18, lanePorts)
  | .clearFault p r _ => some (p, r, 0x19, lanePorts)
  | .warmReset p r => some (p, r, 0x1A, lanePorts)
  | .testField p r _ _ _ => some (p, r, 0x1B, lanePorts)
  | .doorStatus p r _ => some (p, r, 0x20, doorPort)
  | .doorOpen p r _ => some (p, r, 0x21, doorPort)
  | .doorClose p r _ => some (p, r, 0x22, doorPort)
  | .haltOn p r => some (p, r, 0x23, doorPort)
  | .haltOff p r => some (p, r, 0x24, doorPort)
  | .kneelOn p r => some (p, r, 0x25, doorPort)
  | .kneelOff p r => some (p, r, 0x26, doorPort)
  | _ => none

/-- A request passes the tests of R188 that stand before the owning block's: the transfer is not abandoned (R194), the
mode is not POWERUP, the reserved byte is 00h, the port is permitted. -/
def Passes (p : Port) (r : Byte) (ports : Port → Bool) (s : State) : Prop :=
  isAbandoned p s = false ∧ s.mode ≠ .powerup ∧ r = 0 ∧ ports p = true

/-- Nothing waits to be taken, and a transaction is in flight, so that a step begins none. -/
def Quiet (s : State) : Prop := s.inFlight = [] ∧ s.flc.txn.isSome = true

/-- The states agree but for what MPI holds. -/
def SameButPorts (s t : State) : Prop := { t with mpi := s.mpi } = s

/-- The states agree but for what MPI holds and the model's counter of free values (Log 7). -/
def SameButPortsAndFree (s t : State) : Prop := { t with mpi := s.mpi, freeCount := s.freeCount } = s

/-- The notice queues and their lost flags are as they were. -/
def QueuesKept (s t : State) : Prop :=
  ∀ p, (t.mpi.get p).queue = (s.mpi.get p).queue ∧ (t.mpi.get p).lost = (s.mpi.get p).lost

/-- A field transaction of kind SET or ECHO to a fitted node is in flight (R43). -/
def InTransaction (s : State) (x : Txn) : Prop :=
  s.flc.txn = some x ∧ x.kind ≠ .shutdown ∧ s.store.nodeFitted x.node = true

/-- A SHUTDOWN transaction is in flight (R55). -/
def InShutdown (s : State) (x : Txn) : Prop := s.flc.txn = some x ∧ x.kind = .shutdown

/-- `P` is kept by every step that goes on. -/
def Kept (P : State → Prop) : Prop := ∀ s t, P s → step s = .next t → P t

end Sys2Proof.Safety
end

