-- ==== Sys2Proof/Certificates/Slice0/Obligations.lean ====
section
/-! DEFINITION. The statements for the provers. -/

open Sys2Proof Sys2Proof.Machine Sys2Proof.Safety

/-! The step, the queue and the frames -/

/-- A step runs the command at the front of the queue on the state with the queue's rest. -/
def Obligations.StepRunsFrontCommand : Prop :=
  ∀ (c : Instr) (rest : List Instr) (s : State),
    step { s with pending := c :: rest } = exec c { s with pending := rest }

/-- On an empty queue 1 ms passes (the model's choice, Log 3): every running timer goes down by 1, not below 0, and every
age up by 1, held at 65,535; nothing else moves before what waits is taken. Then what the end of every step is, the model's
choices too: what is announced joins the tail of those that wait (Log 1); what waits is taken one at a time, oldest first, at
most 1024 in a step, and no such bound matters once nothing waits (Log 2); then the field link goes on (Log 11). -/
def Obligations.EmptyQueueTicks : Prop :=
  (∀ s : State, s.pending = [] →
    let u := { s with
      lv := { s.lv with lanes := .of fun x => { s.lv.lanes.get x with
        since := (s.lv.lanes.get x).since.map fun n => min 65535 (n + 1)
        timer := match (s.lv.lanes.get x).timer with
          | .stopped => .stopped
          | .stage1 n => .stage1 (n - 1)
          | .stage2 n => .stage2 (n - 1) } }
      cau := .of fun c => { s.cau.get c with claims := (s.cau.get c).claims.map fun x => { x with
        hold := match x.hold with
          | .running n => .running (n - 1)
          | h => h } }
      lku := { s.lku with
        corners := .of fun k => { s.lku.corners.get k with
          persist := (s.lku.corners.get k).persist.map fun x => (x.1, x.2 - 1)
          valveRun := (s.lku.corners.get k).valveRun.map (· - 1) }
        kneelTimer := s.lku.kneelTimer.map (· - 1) }
      dsv := { s.dsv with
        disagree := .of fun n => (s.dsv.disagree.get n).map (· - 1)
        stale := s.dsv.stale.map (· - 1)
        since := s.dsv.since.map fun n => min 65535 (n + 1) }
      mru := { s.mru with settle := s.mru.settle.map (· - 1) }
      flc := { s.flc with timer := s.flc.timer.map (· - 1) }
      mc := { s.mc with
        ready := .of fun x => (s.mc.ready.get x).map (· - 1)
        standbyWin := s.mc.standbyWin.map fun w => { w with remaining := w.remaining - 1 }
        resetWin := s.mc.resetWin.map fun w => { w with remaining := w.remaining - 1 } } }
    step s = .next (complete u) ∧ (Quiet s → step s = .next u)) ∧
  (∀ (evs : List Ev) (s : State), announce evs s = { s with inFlight := s.inFlight ++ evs }) ∧
  (∀ s : State, settle 0 s = s ∧ complete s = advance (settle 1024 s) ∧
    ∀ n : Nat,
      (s.inFlight = [] → settle (n + 1) s = s) ∧
      (∀ e rest, s.inFlight = e :: rest → settle (n + 1) s = settle n (handle e { s with inFlight := rest })) ∧
      ((settle n s).inFlight = [] → ∀ m, n ≤ m → settle m s = settle n s))

/-- No command touches the queue of commands behind it. -/
def Obligations.ExecKeepsQueue : Prop :=
  ∀ (c : Instr) (s t : State), exec c s = .next t → t.pending = s.pending

/-- Every request on any port passes the tests of R188 in their order, and a kind byte that names no request stands
between the first and the reserved byte; what is refused there changes nothing but the previous-frame result and answers
with data 00h. The kind bytes that name a request are the 23 codes of the table of requests, and each names a request on its
ports. -/
def Obligations.RequestsJudgedInOrder : Prop :=
  (∀ (c : Instr) (p : Port) (r k : Byte) (ports : Port → Bool) (s : State),
    requestOf c = some (p, r, k, ports) → isAbandoned p s = false →
      (s.mode = .powerup → exec c s = .next (answer p k ⟨.refusedState, []⟩ (closeTransfer p s))) ∧
      (s.mode ≠ .powerup → r ≠ 0 → exec c s = .next (answer p k ⟨.refusedArg, []⟩ (closeTransfer p s))) ∧
      (s.mode ≠ .powerup → r = 0 → ports p = false →
        exec c s = .next (answer p k ⟨.refusedPort, []⟩ (closeTransfer p s)))) ∧
  (∀ (p : Port) (k : Byte) (s : State), kindNames k = false → isAbandoned p s = false →
    exec (.unknownKindFrame p k) s =
      .next (answer p k ⟨if s.mode = .powerup then .refusedState else .unknownKind, []⟩ (closeTransfer p s))) ∧
  (∀ (p : Port) (k : Byte) (res : Result) (d : List Byte) (s : State),
    SameButPorts s (answer p k ⟨res, d⟩ (closeTransfer p s)) ∧
    (answer p k ⟨res, d⟩ (closeTransfer p s)).mpi.get p =
      { s.mpi.get p with answer := ⟨k, res, (d ++ List.replicate 8 0).take 8⟩, transfer := .idle } ∧
    ∀ q, q ≠ p → (answer p k ⟨res, d⟩ (closeTransfer p s)).mpi.get q = s.mpi.get q) ∧
  ([Result.ok, .refusedState, .refusedPort, .refusedArg, .refusedLocked, .refusedDigest, .badFrame, .unknownKind,
    .noData].map Result.code = [0, 1, 2, 3, 4, 5, 6, 7, 8]) ∧
  (∀ k : Byte,
    let everyPort : List Nat := [0x00, 0x01, 0x02, 0x03]
    let laneOnly : List Nat := [0x10, 0x11, 0x12, 0x13, 0x14, 0x15, 0x16, 0x17, 0x18, 0x19, 0x1A, 0x1B]
    let doorOnly : List Nat := [0x20, 0x21, 0x22, 0x23, 0x24, 0x25, 0x26]
    (kindNames k = true ↔ k.toNat ∈ everyPort ++ laneOnly ++ doorOnly) ∧
    (kindNames k = true ↔ ∃ c p r ports, requestOf c = some (p, r, k, ports)) ∧
    ∀ c p r ports, requestOf c = some (p, r, k, ports) → ∀ q,
      (ports q = true ↔ k.toNat ∈ everyPort ∨ k.toNat ∈ laneOnly ∧ q ≠ .d ∨ k.toNat ∈ doorOnly ∧ q = .d))

/-- A port whose transfer a reset has abandoned yields no frame (R194): every request, discarded frame and unknown kind
on it changes nothing. An unknown-kind command whose kind names a request is refused by name (the model's choice,
Log 24). -/
def Obligations.FramesNotTaken : Prop :=
  (∀ (c : Instr) (p : Port) (r k : Byte) (ports : Port → Bool) (s : State),
    requestOf c = some (p, r, k, ports) → isAbandoned p s = true → exec c s = .next s) ∧
  (∀ (p : Port) (clocks : Nat) (first : Byte) (s : State), isAbandoned p s = true →
    exec (.badFrame p clocks first) s = .next s) ∧
  (∀ (p : Port) (k : Byte) (s : State), kindNames k = false → isAbandoned p s = true →
    exec (.unknownKindFrame p k) s = .next s) ∧
  (∀ (p : Port) (k : Byte) (s : State), kindNames k = true →
    exec (.unknownKindFrame p k) s = .refused .kindNamesARequest)

/-- A discarded frame's answer and fault (R186): the kind byte is the first byte, 00h below 8 clocks; LINK_FRAME is
raised with port, failure, clock count and kind byte. In POWERUP it raises nothing. The numbers of the item, 0 to 2 for
ports A, B and D and 0 COUNT, 1 CRC for the failure, are the model's (Log 14). -/
def Obligations.BadFrameDiscarded : Prop :=
  ∀ (p : Port) (clocks : Nat) (first : Byte) (s : State), isAbandoned p s = false →
    let kind : Byte := if clocks < 8 then 0 else first
    let u := answer p kind ⟨.badFrame, []⟩ (closeTransfer p s)
    (s.mode ≠ .powerup →
      exec (.badFrame p clocks first) s =
        .next (complete (detect .linkFrame (.port p) none
          ([byte (portNo p), if clocks = 96 then 1 else 0] ++ word (min 65535 clocks) ++ [kind]) u)) ∧
      (s.inFlight = [] → ∃ t, exec (.badFrame p clocks first) s = .next t ∧ t.fu.has .linkFrame = true)) ∧
    (s.mode = .powerup → exec (.badFrame p clocks first) s = .next (complete u))

/-- At the falling edge of CSn the twelve response bytes are fixed: kind, result code, eight data bytes, the flag byte
(bit 7 notice pending, bit 6 notice lost, bits 2 to 0 the mode) and the CRC over the eleven (R187, 12.1). -/
def Obligations.ResponseFixedAtFallingEdge : Prop :=
  ∀ (p : Port) (s : State),
    let q := s.mpi.get p
    let body := [q.answer.kind, byte q.answer.result.code] ++ q.answer.data ++
      [byte ((if q.queue = [] then 0 else 128) + (if q.lost then 64 else 0) + s.mode.code)]
    exec (.csnFallingEdge p) s =
      .next { s with mpi := s.mpi.set p { q with transfer := .active (body ++ [portCrc body]) } }

/-! Notices and reads -/

/-- A notice offered to a port merges into the queued one of its kind, or joins the tail of a queue shorter than 8, or is
dropped with the lost flag set; a removal that empties the queue clears the flag; no fault is raised (R192). -/
def Obligations.NoticeOffered : Prop :=
  (∀ (n : Notice) (p : PortState),
    ((∃ m ∈ p.queue, m.kindNo = n.kindNo) →
      offerPort n p = { p with queue := p.queue.map fun m => if m.kindNo = n.kindNo then m.merge n else m }) ∧
    ((∀ m ∈ p.queue, m.kindNo ≠ n.kindNo) →
      offerPort n p =
        if p.queue.length < 8 then { p with queue := p.queue ++ [n] } else { p with lost := true }) ∧
    (QueueOk p → QueueOk (offerPort n p))) ∧
  (∀ (ks ks' : BitVec 24) (src src' : FaultSource) (sv sv' : Severity) (m m' : Mode),
    (Notice.faultRaised ks src sv m).merge (.faultRaised ks' src' sv' m') = .faultRaised (ks ||| ks') src' sv' m') ∧
  (∀ (cs cs' : BitVec 16) (src src' : Source),
    (Notice.claimTaken cs src).merge (.claimTaken cs' src') = .claimTaken (cs ||| cs') src' ∧
    (Notice.claimDisplaced cs src).merge (.claimDisplaced cs' src') = .claimDisplaced (cs ||| cs') src' ∧
    (Notice.claimExpired cs src).merge (.claimExpired cs' src') = .claimExpired (cs ||| cs') src') ∧
  (∀ old new : Notice, old.kindNo = new.kindNo → new.kindNo ≠ 1 → new.kindNo ≠ 3 → new.kindNo ≠ 4 →
    new.kindNo ≠ 5 → old.merge new = new) ∧
  (∀ p : PortState, (popNotice p).queue = [] → (popNotice p).lost = false) ∧
  (∀ (n : Notice) (s : State),
    SameButPorts s (offer n s) ∧
    ∀ p, (offer n s).mpi.get p = if s.store.routed n.kindNo p then offerPort n (s.mpi.get p) else s.mpi.get p)

/-- READ_NOTICE takes the oldest notice of its own port's queue and answers its kind and payload; an empty queue gives
NO_DATA and no change; the alert line is low while the queue is not empty (R193). Then each notice's kind number and
payload (R191), and the numbers of the modes (12.1), of the fault and claim sources (12.4, R4) and of a set of doors
(R189). -/
def Obligations.NoticesReadOldestFirst : Prop :=
  (∀ (p : Port) (r : Byte) (s : State), Passes p r allPorts s →
    ((s.mpi.get p).queue = [] →
      exec (.readNotice p r) s = .next (answer p 0x01 ⟨.noData, []⟩ (closeTransfer p s))) ∧
    (∀ n q, (s.mpi.get p).queue = n :: q →
      exec (.readNotice p r) s =
        .next (answer p 0x01 ⟨.ok, byte n.kindNo :: n.payload⟩
          { s with
            mpi := s.mpi.set p { s.mpi.get p with
              queue := q
              lost := (s.mpi.get p).lost && decide (q ≠ [])
              transfer := .idle } }))) ∧
  (∀ n : Notice, n.payload.length ≤ 7) ∧
  (∀ p : PortState, p.alertLow = true ↔ p.queue ≠ []) ∧
  (∀ (prev new m : Mode) (ks : BitVec 24) (src : FaultSource) (sev : Severity) (k : FaultKind) (cs : BitVec 16)
    (cl : Source) (rest : Bool) (outs unsec : PerDoor Bool) (kn : KneelState) (x : Lane) (res : TestResult) (nd : Node),
    let is (n : Notice) (no : Nat) (payload : List Byte) : Prop := n.kindNo = no ∧ n.payload = payload
    is (.modeChanged prev new) 0 [byte prev.code, byte new.code] ∧
    is (.faultRaised ks src sev m) 1 (set3 ks.toNat ++ [byte src.code, byte sev.code, byte m.code]) ∧
    is (.captureFull k src) 2 [byte k.no, byte src.code] ∧
    is (.claimTaken cs cl) 3 (word cs.toNat ++ [byte (sourceCode cl)]) ∧
    is (.claimDisplaced cs cl) 4 (word cs.toNat ++ [byte (sourceCode cl)]) ∧
    is (.claimExpired cs cl) 5 (word cs.toNat ++ [byte (sourceCode cl)]) ∧
    is (.doorPermit rest outs unsec kn) 6 [flag rest, doorSet outs, doorSet unsec, byte kn.code] ∧
    is (.enterRunLapsed x) 7 [if x = .a then 0 else 1] ∧
    is (.testDone res nd) 8 [byte res.code, byte (nodeNo nd)] ∧
    ∀ n, (doorSet outs).getLsbD (doorNo n - 1) = outs.get n) ∧
  ([Mode.powerup, .config, .service, .run, .degraded, .safeStop, .standby].map Mode.code = [0, 1, 2, 3, 4, 5, 6]) ∧
  ((Node.all.map FaultSource.node ++ [FaultSource.port .a, .port .b, .port .d, .lv, .flc, .mru, .bau, .sju, .lku, .dsv]).map
    FaultSource.code = [0, 1, 2, 3, 4, 5, 6, 7, 8, 9, 10, 20, 21, 22, 30, 31, 32, 33, 34, 35, 36]) ∧
  (([Source.safe, .emerg, .centre] ++ Entry.all.map Source.entry ++ [Source.doorHalt, .doorKneel, .doorOpen .d1,
    .doorOpen .d2, .doorOpen .d3, .doorOpen .d4, .joint, .lane]).map sourceCode = (List.range 27).map (· + 1))

/-- NOP answers OK with data 00h: it completes on every port, in every mode but POWERUP, when its reserved byte is 00h
(R188, R189). NOP, READ_CLAIM, CONFIG_READ and READ_FAULTS complete in every state and change nothing but the answering
port's previous-frame result and transfer; READ_STATE and READ_CAPTURE also move the model's own counter of free values
(Log 7). No queue changes, and no other port's result or transfer. -/
def Obligations.ReadsChangeNothing : Prop :=
  (∀ (p : Port) (r : Byte) (s : State), Passes p r allPorts s →
    exec (.nop p r) s = .next (answer p 0x00 ⟨.ok, []⟩ (closeTransfer p s))) ∧
  (∀ (p : Port) (r b1 b2 : Byte) (s : State),
    ∀ c ∈ [Instr.nop p r, .readClaim p r b1 b2, .configRead p r b1, .readFaults p r b1],
      ∃ t, exec c s = .next t ∧ SameButPorts s t ∧ QueuesKept s t ∧ ∀ q, q ≠ p → t.mpi.get q = s.mpi.get q) ∧
  (∀ (p : Port) (r b1 b2 : Byte) (s : State),
    ∀ c ∈ [Instr.readState p r b1 b2, .readCapture p r b1],
      ∃ t, exec c s = .next t ∧ SameButPortsAndFree s t ∧ QueuesKept s t ∧ ∀ q, q ≠ p → t.mpi.get q = s.mpi.get q)

/-- READ_CLAIM reports the record at the position of the channel's list, NO_DATA at or beyond its end, REFUSED_ARG for a
channel above 14 or an index above 7 (R23, R190). Its last two bytes are the hold limit's remaining ms, FFFEh for "no limit"
and FFFFh where the timer is absent (R190). -/
def Obligations.ClaimRead : Prop :=
  ∀ (p : Port) (r ch ix : Byte) (s : State), Passes p r allPorts s →
    (∀ (c : Channel) (x : Claim), chanNo c = ch.toNat → ix.toNat < 8 → (s.cau.get c).claims[ix.toNat]? = some x →
      exec (.readClaim p r ch ix) s =
        .next (answer p 0x02
          ⟨.ok, [byte (sourceCode x.source),
            byte (16 * x.level + 4 * (claimKind x.source).code + (if x.hasHeld then 2 else 0) +
              (if x.hasHeld ∧ ix ≠ 0 then 1 else 0))] ++
            setpointWord x.setpoint ++ word x.stamp ++ holdWord x.hold⟩ (closeTransfer p s))) ∧
    (∀ c : Channel, chanNo c = ch.toNat → ix.toNat < 8 → (s.cau.get c).claims.length ≤ ix.toNat →
      exec (.readClaim p r ch ix) s = .next (answer p 0x02 ⟨.noData, []⟩ (closeTransfer p s))) ∧
    (14 < ch.toNat ∨ 7 < ix.toNat →
      exec (.readClaim p r ch ix) s = .next (answer p 0x02 ⟨.refusedArg, []⟩ (closeTransfer p s))) ∧
    holdWord .absent = [0xFF, 0xFF] ∧ holdWord .noLimit = [0xFF, 0xFE] ∧
    (∀ ms, holdWord (.running ms) = word (min ms 65533)) ∧ (claimKind .lane).code = 0 ∧ (claimKind .doorKneel).code = 1 ∧
    (claimKind (.entry (.fixed .f0))).code = 2

/-- The pages that each selector of READ_STATE has (R190). -/
def pageCount : Nat → Nat
  | 0 => 6
  | 1 => 3
  | 2 => 5
  | 3 => 17
  | 4 => 13
  | 5 => 3
  | 6 => 6
  | _ => 0

/-- READ_STATE answers a listed page OK with its data and any other REFUSED_ARG; the listed pages are those of R190. Then
the packing of R189 and the bytes of every page. The speed of an empty slot and a time since an event that has not happened
are free values (Log 7), and nothing but their width is said. Sets of axles, corners and doors have a bit for each member
(R189). Enumerations are numbered in the order their chapters list them, from 0, the command kinds as 3.4 numbers them. The
model's choices (Log 14): an age is held at 254, a gate is 0 open, 1 closed, FFh none, the history count and W are one byte
each, and the miss kinds and the item kinds are numbered in the order that R45 and R161 list them. -/
def Obligations.StatePagesRead : Prop :=
  (∀ (p : Port) (r sel page : Byte) (s : State), Passes p r allPorts s →
    (∀ d, statePage (closeTransfer p s) sel.toNat page.toNat = some d →
      exec (.readState p r sel page) s = .next (answer p 0x03 ⟨.ok, d⟩ (drawFree (closeTransfer p s)))) ∧
    (statePage (closeTransfer p s) sel.toNat page.toNat = none →
      exec (.readState p r sel page) s = .next (answer p 0x03 ⟨.refusedArg, []⟩ (drawFree (closeTransfer p s))))) ∧
  (∀ (s : State) (sel page : Nat), (statePage s sel page).isSome = true ↔ page < pageCount sel) ∧
  ((∀ n, word n = [BitVec.ofNat 8 (n / 256), BitVec.ofNat 8 n]) ∧ (∀ x, wordInt x = word (BitVec.ofInt 16 x).toNat) ∧
    timerWord none = [0xFF, 0xFF] ∧ (∀ n, timerWord (some n) = word (min n 65533)) ∧
    heightWord none = [0x80, 0x00] ∧ (∀ h, heightWord (some h) = wordInt h) ∧
    sampleWord none = [0xFF, 0xFF] ∧ (∀ x, sampleWord (some x) = wordInt x) ∧ byteOr none = 0xFF ∧
    (∀ n, byteOr (some n) = byte n) ∧ setpointWord .holdPresent = [0x7F, 0xFF] ∧ setpointWord .off = [0, 0] ∧
    setpointWord .on = [0, 1] ∧ (∀ n, setpointWord (.num n) = wordInt n) ∧ holderCode none = 0 ∧
    (∀ x, holderCode (some x) = sourceCode x)) ∧
  (gateByte none = 0xFF ∧ gateByte (some true) = 0 ∧ gateByte (some false) = 1 ∧
    (∀ (t : PerAxle Bool) (i : Nat), (axleSet t).getLsbD i = true ↔ ∃ x, axleNo x = i ∧ t.get x = true) ∧
    (∀ (t : PerCorner Bool) (i : Nat), (cornerSet t).getLsbD i = true ↔ ∃ k, cornerNo k = i ∧ t.get k = true) ∧
    [Axle.a, .b, .c].map axleNo = [0, 1, 2] ∧
    [Corner.al, .ar, .bl, .br, .cl, .cr].map cornerNo = [0, 1, 2, 3, 4, 5]) ∧
  ([Freshness.fresh, .stale, .lost].map Freshness.code = [0, 1, 2] ∧
    [Basis.both, .aOnly, .bOnly, .held].map Basis.code = [0, 1, 2, 3] ∧
    [SteerMode.active, .centre].map SteerMode.code = [0, 1] ∧
    [LevelMode.normal, .high, .low].map LevelMode.code = [0, 1, 2] ∧
    [DoorReport.closedLocked, .closed, .opened, .obstructed, .unknown].map DoorReport.code = [0, 1, 2, 3, 4] ∧
    [KneelState.normal, .lowering, .kneeled, .raising].map KneelState.code = [0, 1, 2, 3] ∧
    [Valve.hold, .fill, .exhaust].map Valve.code = [0, 1, 2] ∧
    [NodeState.unpolled, .active, .lost].map NodeState.code = [0, 1, 2] ∧
    [TestResult.none, .running, .pass, .fail, .aborted].map TestResult.code = [0, 1, 2, 3, 4] ∧
    [Cause.pin, .request, .power].map Cause.code = [0, 1, 2] ∧
    [CmdKind.set, .echo, .shutdown].map CmdKind.code = [1, 2, 3] ∧
    [MissKind.silent, .corrupt, .wrongAddress].map missCode = [0, 1, 2] ∧
    [Severity.correctable, .degrade, .fatal].map Severity.code = [0, 1, 2] ∧
    [ItemKind.laneSetpoint, .fieldCommand, .nodeResponse, .doorReport, .portFrame, .unitRecord, .selfTest].map
      ItemKind.code = [0, 1, 2, 3, 4, 5, 6] ∧
    [FaultKind.laneStale, .laneLost, .bothLanesLost, .laneDisagree, .linkFrame, .fieldMiss, .nodeLost, .nodeCode,
      .nodeSensor, .nodeActuator, .followError, .brakeSaturated, .brakeCapacity, .speedUnknown, .articLimit, .levelTimeout,
      .kneelTimeout, .doorDisagree, .doorLinkStale, .selfTestFail, .shutdownAckMissing].map FaultKind.no =
        List.range 21) ∧
  (∀ s : State,
    let page (sel n : Nat) (d : List Byte) : Prop := statePage s sel n = some d
    let slot (x : Axle) (d : List Byte) : Prop := match s.mru.slots.get x with
      | some y => d = wordInt y.speed ++ [byte (min 254 ((s.mru.latest + 65536 - y.round) % 65536)),
          flag (decide (s.mru.nodeState.get x ≠ .lost))]
      | none => ∃ free : List Byte, free.length = 2 ∧ d = free ++ [0xFF, 0]
    let since (heard : Option Nat) (d : List Byte) : Prop := match heard with
      | some ms => d = 1 :: word ms
      | none => ∃ free : List Byte, free.length = 2 ∧ d = 0 :: free
    let centring := s.sju.centring
    page 0 0 (wordInt s.mru.v ++ [flag s.mru.speedKnown, flag s.mru.atRest] ++ timerWord s.mru.settle) ∧
    (∃ a b, slot .a a ∧ slot .b b ∧ page 0 1 (a ++ b)) ∧ (∃ c, slot .c c ∧ page 0 2 (c ++ word s.mru.latest)) ∧
    page 0 3 (wordInt s.mru.theta ++ wordInt s.mru.rate ++
      [flag s.mru.rateValid, byte s.mru.history.length, byte s.store.histDepth]) ∧
    page 0 4 (wordInt s.sju.target ++ wordInt s.sju.rawTarget ++ wordInt s.sju.fade) ∧
    page 0 5 (wordInt s.sju.lastSent ++ wordInt s.sju.current ++ [byteOr s.sju.row,
      byte (centring.mode.toNat + 2 * centring.angle.toNat + 4 * centring.node.toNat + 8 * centring.follow.toNat),
      flag (decide (∃ x ∈ (s.cau.get .str).claims, x.source = .centre))]) ∧
    page 1 0 (wordInt s.lv.voted.demand ++ [flag s.lv.voted.emergency] ++ wordInt s.lv.voted.angle ++
      [byte s.lv.voted.steer.code, byte s.lv.voted.level.code, byte s.lv.basis.code]) ∧
    page 1 1 [byte s.lv.counters.demand, byte s.lv.counters.emergency, byte s.lv.counters.angle,
      byte s.lv.counters.steer, byte s.lv.counters.level] ∧
    (∃ a b, since s.lv.lanes.a.since a ∧ since s.lv.lanes.b.since b ∧
      page 1 2 ([byte s.lv.lanes.a.freshness.code] ++ a ++ [byte s.lv.lanes.b.freshness.code] ++ b)) ∧
    (∀ n, page 2 (doorNo n - 1) ([flag (s.store.doorFitted n), flag (s.dsv.contacts.get n).closed,
      byte (s.dsv.contacts.get n).run, byte (s.dsv.reports.get n).code, flag (s.dsv.unsecured.get n),
      flag (s.dsv.outputs.get n)] ++ timerWord (s.dsv.disagree.get n))) ∧
    (∃ d, since s.dsv.since d ∧
      page 2 4 (d ++ timerWord s.dsv.stale ++ [flag s.dsv.atRest, byte s.dsv.kneel.code])) ∧
    (∀ k, let c := s.lku.corners.get k
      page 3 (2 * cornerNo k) ([byte c.valve.code] ++ heightWord c.height ++ [byte (holderCode c.holder)] ++
        setpointWord c.effective ++ [flag c.nodeLost]) ∧
      page 3 (2 * cornerNo k + 1) ([match c.persist with
        | none => 0
        | some (.low, _) => 1
        | some (.high, _) => 2] ++ timerWord (c.persist.map Prod.snd) ++ timerWord c.valveRun)) ∧
    page 3 12 (wordInt s.lku.hLane ++ [cornerSet (.of s.store.inGroup), byte s.lku.kneel.code] ++
      timerWord s.lku.kneelTimer) ∧
    page 3 13 (sampleWord s.bau.samples.al ++ sampleWord s.bau.samples.ar ++ sampleWord s.bau.samples.bl ++
      sampleWord s.bau.samples.br) ∧
    page 3 14 (sampleWord s.bau.samples.cl ++ sampleWord s.bau.samples.cr ++
      [gateByte s.bau.gates.a, gateByte s.bau.gates.b, gateByte s.bau.gates.c]) ∧
    page 3 15 (wordInt s.bau.load.a ++ wordInt s.bau.load.b ++ wordInt s.bau.load.c ++
      [axleSet s.bau.lost, axleSet s.bau.saturated]) ∧
    page 3 16 [flag s.bau.floor] ∧
    (∀ n, let r := s.flc.nodes.get n
      page 4 (nodeNo n) ([byte r.state.code, byte r.misses, byte r.lastCode, byte r.follow] ++ wordInt r.m1 ++
        wordInt r.m2)) ∧
    page 4 11 (word s.flc.round ++ [byte s.flc.test.result.code, byte (nodeNo s.flc.test.node)] ++
      word s.flc.test.pattern.toNat ++ [byte s.flc.test.count, byte (s.flc.test.mismatch.getD 0)]) ∧
    page 4 12 [byte s.flc.test.sent, byte s.flc.test.received] ∧
    page 5 0 ([byte s.mode.code, flag s.mc.locked] ++ word s.store.digest.toNat ++ timerWord s.mc.ready.a ++
      timerWord s.mc.ready.b) ∧
    (let window (o : Option Opened) : List Byte := match o with
       | none => [0, 0xFF, 0xFF]
       | some w => [if w.lane = .a then 1 else 2] ++ timerWord (some w.remaining)
     page 5 1 (window s.mc.standbyWin ++ window s.mc.resetWin ++ [byte s.mc.resetMode.code,
        byte s.mc.resetCause.code])) ∧
    page 5 2 (word (Entry.all.map fun e => if armed s.store s.mc.locked e then 2 ^ entryBit e else 0).sum ++
      word s.ict.truth.toNat) ∧
    (Entry.all.map entryBit = List.range 16) ∧
    (∀ p, let q := s.mpi.get p
      page 6 (2 * portNo p) [byte q.queue.length, flag q.lost, flag (decide (q.queue ≠ []))] ∧
      page 6 (2 * portNo p + 1)
        (((q.queue.map fun (n : Notice) => byte n.kindNo) ++ List.replicate 8 0xFF).take 8)))

/-- CONFIG_READ answers a held item with its stored value and an unknown item (189, 240 to 255) with REFUSED_ARG, in every
mode from CONFIG on, locked or not. The value takes two bytes, a signed item in two's complement, and three for the setpoint
kind of an entry (80 + 9k + 8), most significant byte first (R180). Then the item by which each configured value is held: the
table of R180 item by item, times in seconds as ms, the fitted channels and nodes (R3, R43), W = 100 / Tf (R68), a severity that
names none of the three as FATAL with LANE_LOST's from the stage-2 action (R27, R157), and the ports a notice kind goes to
(R191). -/
def Obligations.ConfigItemRead : Prop :=
  (∀ (p : Port) (r item : Byte) (s : State), Passes p r lanePorts s →
    (item.toNat < 240 → item.toNat ≠ 189 →
      exec (.configRead p r item) s =
        .next (answer p 0x12 ⟨.ok, s.store.bytes item.toNat⟩ (closeTransfer p s))) ∧
    (240 ≤ item.toNat ∨ item.toNat = 189 →
      exec (.configRead p r item) s = .next (answer p 0x12 ⟨.refusedArg, []⟩ (closeTransfer p s)))) ∧
  (∀ (st : Store) (n : Nat),
    let kindItem := ∃ k : Fin 12, n = 80 + 9 * k.val + 8
    let two := BitVec.ofInt 16 (st.get n)
    let three := BitVec.ofInt 24 (st.get n)
    (¬ kindItem → st.bytes n = [two.extractLsb' 8 8, two.extractLsb' 0 8]) ∧
    (kindItem → 0 ≤ st.get n →
      st.bytes n = [three.extractLsb' 16 8, three.extractLsb' 8 8, three.extractLsb' 0 8])) ∧
  (∀ st : Store,
    let nodes : List Node := [.brk .a, .brk .b, .brk .c, .str, .jnt, .lvl .al, .lvl .ar, .lvl .bl, .lvl .br, .lvl .cl,
      .lvl .cr]
    (∀ x, let b := 7 * axleNo x
      st.gA x = st.get b ∧ st.uA x = st.get (b + 1) ∧ st.lMin x = st.get (b + 2) ∧ st.lMax x = st.get (b + 3) ∧
      st.nA x = st.get (b + 4) ∧ st.kA x = st.get (b + 5) ∧ st.tA x = st.get (b + 6)) ∧
    [st.haltP, st.dEmerg, st.dSafe, st.gTheta, st.gF, st.v1, st.v2, st.deltaMax, st.rLim, st.thetaMax, st.thetaWarn,
      st.iBase, st.iMax, st.gD] = (List.range 14).map (fun i => st.get (21 + i)) ∧
    (st.steerFitted = true ↔ st.get 35 ≠ 0) ∧ (st.jointFitted = true ↔ st.get 36 ≠ 0) ∧
    [st.hHigh, st.hLow, st.vHighMax, st.db] = (List.range 4).map (fun i => st.get (37 + i)) ∧
    (∀ k, st.inGroup k = (st.get 43).toNat.testBit (5 + cornerNo k)) ∧ st.kneelHeight = st.get 44 ∧
    [st.tMove, st.tValve, st.tKneel, st.tOpenWait, st.tKneelWait] =
      [41, 42, 45, 46, 47].map (fun i => 1000 * (st.get i).toNat) ∧
    (∀ n, st.doorFitted n = true ↔ doorNo n ≤ (st.get 48).toNat) ∧
    [st.debounce, st.tDoorStale, st.tDoorDisagree, st.tStale, st.tGrace] =
      [49, 50, 51, 52, 53].map (fun i => (st.get i).toNat) ∧
    st.wD = st.get 55 ∧ st.wS = st.get 56 ∧
    [st.nDis, st.tRest, st.tf, st.window, st.missLimit, st.tAck, st.lvlDoorHold, st.lvlKneel, st.lvlDoorOpen,
      st.lvlLane] = [57, 58, 59, 60, 61, 75, 76, 77, 78, 79].map (fun i => (st.get i).toNat) ∧
    st.histDepth = 100 / (st.get 59).toNat ∧
    nodes.map st.nodeAddr = (List.range 11).map (fun i => (st.get (62 + i)).toNat) ∧
    st.brakeTol = st.get 73 ∧ st.steerTol = st.get 74 ∧
    (∀ k : FaultKind, (st.masked k = true ↔ st.get (209 + k.no) ≠ 0) ∧
      let v := st.get (if k = .laneLost then 54 else 188 + k.no)
      (v = 0 → st.severity k = .correctable) ∧ (v = 1 → st.severity k = .degrade) ∧
      (v ≠ 0 → v ≠ 1 → st.severity k = .fatal)) ∧
    (st.promote = true ↔ st.get 230 ≠ 0) ∧
    (∀ (j : Nat) (p : Port), st.routed j p = (st.get (231 + j)).toNat.testBit (portNo p)) ∧
    (∀ n, st.nodeFitted n = true ↔ (n = .str → st.get 35 ≠ 0) ∧ (n = .jnt → st.get 36 ≠ 0)) ∧
    st.fittedNodes = nodes.filter st.nodeFitted ∧
    ∀ c, st.chanFitted c = true ↔
      (c = .str → st.get 35 ≠ 0) ∧ (c = .jnt → st.get 36 ≠ 0) ∧ ∀ n, c = .drel n → doorNo n ≤ (st.get 48).toNat)

/-- READ_CAPTURE and READ_FAULTS answer their groups, NO_DATA where the record or the pointer is empty, and REFUSED_ARG
beyond the last group (R170, R171, packed by R190). A capture with no channel answers FFh for the channel and its holder;
the two setpoint bytes that follow are the model's free value (Log 7), and nothing is said of them but their number. -/
def Obligations.FaultRecordsRead : Prop :=
  (∀ (p : Port) (r g : Byte) (s : State), Passes p r lanePorts s →
    let cap (rep : Reply) : Prop :=
      exec (.readCapture p r g) s = .next (answer p 0x17 rep (drawFree (closeTransfer p s)))
    (3 < g.toNat → cap ⟨.refusedArg, []⟩) ∧
    (s.fu.capture = none →
      (g = 0 → cap ⟨.ok, [0, flag s.fu.captureMultiple, 0xFF, 0xFF, 0xFF]⟩) ∧
      (1 ≤ g.toNat → g.toNat ≤ 3 → cap ⟨.noData, []⟩)) ∧
    (∀ x, s.fu.capture = some x →
      (g = 0 →
        cap ⟨.ok, [1, flag s.fu.captureMultiple, byte x.kind.no, byte x.source.code, byte x.mode.code]⟩) ∧
      (g = 1 → cap ⟨.ok, wordInt x.v ++ [flag x.speedKnown, flag x.atRest] ++ wordInt x.theta⟩) ∧
      (g = 2 → ∀ a, x.affected = some a →
        cap ⟨.ok, [byte (chanNo a.channel), byte (holderCode a.holder)] ++ setpointWord a.effective⟩) ∧
      (g = 2 → x.affected = none → ∃ free : List Byte, free.length = 2 ∧ cap ⟨.ok, [0xFF, 0xFF] ++ free⟩) ∧
      (g = 3 → cap ⟨.ok, [x.codes]⟩))) ∧
  (∀ (p : Port) (r g : Byte) (s : State), Passes p r lanePorts s →
    let flt (rep : Reply) : Prop := exec (.readFaults p r g) s = .next (answer p 0x18 rep (closeTransfer p s))
    (5 < g.toNat → flt ⟨.refusedArg, []⟩) ∧
    (g = 0 → flt ⟨.ok, set3 s.fu.status.toNat ++ [flag s.fu.multiCorr, flag s.fu.multiUncorr,
      flag s.fu.captureMultiple, flag s.store.promote]⟩) ∧
    (g = 1 → flt ⟨.ok, [byteOr (s.fu.idCorr.map FaultSource.code), byteOr (s.fu.idUncorr.map FaultSource.code),
      byteOr (s.fu.log.map fun l => l.kind.no)]⟩) ∧
    (s.fu.log = none → 2 ≤ g.toNat → g.toNat ≤ 5 → flt ⟨.noData, []⟩) ∧
    (∀ l, s.fu.log = some l →
      (g = 2 → flt ⟨.ok, [byte l.origin.code, byteOr (l.channel.map chanNo), byte l.item.kind.code]⟩) ∧
      (g = 3 → flt ⟨.ok, l.item.bytes.take 8⟩) ∧
      (g = 4 → flt ⟨.ok, (l.item.bytes.drop 8).take 8⟩) ∧
      (g = 5 → flt ⟨.ok, (l.item.bytes.drop 16).take 8⟩)))

/-! Lanes -/

/-- A SETPOINT in an operating mode stores the clamped values, makes its lane FRESH with its time since 0 and its stage-1
timer at T_stale, leaves the other lane alone, votes, and answers OK with the voted record; what the vote causes is taken
before the step ends, and the answer is the voted record; in any other mode it is answered REFUSED_STATE (R24, R25, R29,
R31). What the vote hands on is stated with the vote (VoteForms). -/
def Obligations.SetpointTaken : Prop :=
  ∀ (x : Lane) (r : Byte) (d : Word) (e : Byte) (a : Word) (st lv : Byte) (s : State),
    Passes (lanePort x) r lanePorts s →
    let sp : LaneSetpoint := ⟨clamp 0 800 d.toNat, decide (e ≠ 0), clamp (-500) 500 a.toInt,
      if st = 0 then .active else .centre, if lv = 1 then .high else if lv = 2 then .low else .normal⟩
    let taken := { s.lv with lanes := s.lv.lanes.set x ⟨sp, some 0, .fresh, .stage1 s.store.tStale⟩ }
    (s.mode.operating = true → s.inFlight = [] →
      ∃ t, exec (.setpoint (lanePort x) r d e a st lv) s =
          .next (answer (lanePort x) 0x10
            ⟨.ok, wordInt t.lv.voted.demand ++ [flag t.lv.voted.emergency] ++ wordInt t.lv.voted.angle ++
              [byte t.lv.voted.steer.code, byte t.lv.voted.level.code, byte t.lv.basis.code]⟩ t) ∧
        t.lv = lvVoted s.store x taken ∧ t.store = s.store ∧
        t = complete (takeSetpoint x sp (closeTransfer (lanePort x) s))) ∧
    (s.mode.operating = false →
      exec (.setpoint (lanePort x) r d e a st lv) s =
        .next (answer (lanePort x) 0x10 ⟨.refusedState, []⟩ (closeTransfer (lanePort x) s)))

/-- The vote at lane X (R31, the table of R32, the counters of R33): with the other lane FRESH each quantity is voted on
its own and each counter steps; else X's stored values stand, the counters stay and the basis is X's alone. Then what an
accepted SETPOINT hands on: LANE_DISAGREE from the lane's port for the counters that went from N_dis - 1 to N_dis (R33,
R38; the bits of the set are Log 14), each changed voted value announced, or all five at the first vote (R35), S_LANE placed
at the first vote on the brake, steer and level channels (R36), S_EMERG placed on the brakes as EMERG_v sets and withdrawn as
it clears (R37). That the fault comes first and the placements last is the model's choice (Log 19), and so is the order of
the channels (Log 35). -/
def Obligations.VoteForms : Prop :=
  ∀ (st : Store) (x : Lane) (l : Lv),
    let a := (l.lanes.get x).stored
    let b := (l.lanes.get (otherLane x)).stored
    let v := lvVoted st x l
    let count (agree : Prop) [Decidable agree] (n : Nat) : Nat := if agree then n - 1 else min 15 (n + 1)
    v.lanes = l.lanes ∧
    ((l.lanes.get (otherLane x)).freshness = .fresh →
      v.voted.demand = max a.demand b.demand ∧
      v.voted.emergency = (a.emergency || b.emergency) ∧
      v.voted.angle =
        (if |a.angle - b.angle| ≤ st.wS then (a.angle + b.angle).tdiv 2 else l.voted.angle) ∧
      v.voted.steer = (if a.steer = b.steer then a.steer else .centre) ∧
      v.voted.level = (if a.level = b.level then a.level else l.voted.level) ∧
      v.basis = .both ∧
      v.counters = ⟨count (|a.demand - b.demand| ≤ st.wD) l.counters.demand,
        count (a.emergency = b.emergency) l.counters.emergency,
        count (|a.angle - b.angle| ≤ st.wS) l.counters.angle,
        count (a.steer = b.steer) l.counters.steer, count (a.level = b.level) l.counters.level⟩) ∧
    ((l.lanes.get (otherLane x)).freshness ≠ .fresh →
      v.voted = a ∧ v.counters = l.counters ∧ v.basis = match x with
        | .a => .aOnly
        | .b => .bOnly) ∧
    (∀ (sp : LaneSetpoint) (s : State),
      let w := lvVoted s.store x { s.lv with lanes := s.lv.lanes.set x ⟨sp, some 0, .fresh, .stage1 s.store.tStale⟩ }
      let first := s.lv.firstVoteDue = true
      let old := s.lv.voted
      let new := w.voted
      let up (before after : Nat) : Nat := if before + 1 = s.store.nDis ∧ after = s.store.nDis then 1 else 0
      let reached := up s.lv.counters.demand w.counters.demand + 2 * up s.lv.counters.emergency w.counters.emergency +
        4 * up s.lv.counters.angle w.counters.angle + 8 * up s.lv.counters.steer w.counters.steer +
        16 * up s.lv.counters.level w.counters.level
      let raised := if reached = 0 then { s with lv := w }
        else detect .laneDisagree (.port (lanePort x)) none (wordInt sp.demand ++ [flag sp.emergency] ++
          wordInt sp.angle ++ [byte sp.steer.code, byte sp.level.code, byte reached]) { s with lv := w }
      let said (p : Prop) [Decidable p] (e : Ev) : List Ev := if p then [e] else []
      takeSetpoint x sp s = announce
        (said (first ∨ old.demand ≠ new.demand) (.demand new.demand) ++
          said (first ∨ old.emergency ≠ new.emergency) (.emerg new.emergency) ++
          said (first ∨ old.angle ≠ new.angle) (.angle new.angle) ++
          said (first ∨ old.steer ≠ new.steer) (.steerMode new.steer) ++
          said (first ∨ old.level ≠ new.level) (.levelMode new.level) ++ said first .placeLane ++
          said (old.emergency = false ∧ new.emergency = true) .placeEmerg ++
          said (old.emergency = true ∧ new.emergency = false) .withdrawEmerg) raised ∧
      w.firstVoteDue = false ∧ (first → w.placed = true) ∧
      handle .placeLane s = placeClaims .lane [.brk .a, .brk .b, .brk .c, .str, .lvl .al, .lvl .ar, .lvl .bl, .lvl .br,
        .lvl .cl, .lvl .cr] s ∧
      handle .placeEmerg s = placeClaims .emerg [.brk .a, .brk .b, .brk .c] s ∧
      handle .withdrawEmerg s = withdrawClaims .emerg [.brk .a, .brk .b, .brk .c] s)

/-- A lane's stage-1 expiry makes it STALE, starts stage 2 from T_grace, raises LANE_STALE and moves the basis; its
stage-2 expiry makes it LOST with no timer and raises LANE_LOST, and BOTH_LANES_LOST when the other lane is LOST. No vote
is made. LANE_STALE and LANE_LOST come from the lane's port, BOTH_LANES_LOST from LV after LANE_LOST, each with the lane's
stored setpoint and no channel (R38); its packing is R189's. That a fault is captured before what it and the expiry cause is
taken is the model's (Log 1). With no such timer running nothing is done (R26 to R28; the last clause is the model's, Log 4). -/
def Obligations.LaneTimersExpire : Prop :=
  ∀ (x : Lane) (s : State),
    let lane := s.lv.lanes.get x
    let other := s.lv.lanes.get (otherLane x)
    let fields := wordInt lane.stored.demand ++ [flag lane.stored.emergency] ++ wordInt lane.stored.angle ++
      [byte lane.stored.steer.code, byte lane.stored.level.code]
    let port := FaultSource.port (match x with
      | .a => Port.a
      | .b => .b)
    (∀ ms, lane.timer = .stage1 ms → exec (.laneStage1Expiry x) s = .next (complete (detect .laneStale port none fields
      { s with lv := { s.lv with
        lanes := s.lv.lanes.set x { lane with freshness := .stale, timer := .stage2 s.store.tGrace }
        basis := if other.freshness = .fresh then soloBasis (otherLane x) else .held } }))) ∧
    (∀ ms, lane.timer = .stage2 ms →
      let lost := detect .laneLost port none fields
        { s with lv := { s.lv with lanes := s.lv.lanes.set x { lane with freshness := .lost, timer := .stopped } } }
      exec (.laneStage2Expiry x) s = .next (complete (if other.freshness = .lost
        then detect .bothLanesLost .lv none fields lost else lost))) ∧
    (soloBasis .a = .aOnly ∧ soloBasis .b = .bOnly) ∧
    (∀ ms, lane.timer = .stage1 ms → s.inFlight = [] →
      ∃ t, exec (.laneStage1Expiry x) s = .next t ∧
        t.lv = { s.lv with
          lanes := s.lv.lanes.set x { lane with freshness := .stale, timer := .stage2 s.store.tGrace }
          basis := if other.freshness = .fresh then soloBasis (otherLane x) else .held } ∧
        (s.mode ≠ .powerup → t.fu.has .laneStale = true)) ∧
    (∀ ms, lane.timer = .stage2 ms → s.inFlight = [] →
      ∃ t, exec (.laneStage2Expiry x) s = .next t ∧
        t.lv = { s.lv with lanes := s.lv.lanes.set x { lane with freshness := .lost, timer := .stopped } } ∧
        (s.mode ≠ .powerup → t.fu.has .laneLost = true) ∧
        (s.mode ≠ .powerup → other.freshness = .lost → t.fu.has .bothLanesLost = true)) ∧
    ((∀ ms, lane.timer ≠ .stage1 ms) → exec (.laneStage1Expiry x) s = .next (complete s)) ∧
    ((∀ ms, lane.timer ≠ .stage2 ms) → exec (.laneStage2Expiry x) s = .next (complete s))

/-! Channels and claims -/

/-- A placement by a source with no record inserts it after every record of equal or higher level and before the first of
lower level, with the source's level, the next arrival stamp and a clear has-held mark, its hold-limit timer started if it
is ONE_SHOT; at the head it is holder, and the former holder stands second, displaced (R12, R15 to R17). The hold limit a
timer starts from is T_open_wait for S_DOOR_OPEN_n and T_kneel_wait for S_DOOR_KNEEL, and 0 is "no limit" (R15). Each source
has the level and the claim kind of the table of R4. -/
def Obligations.PlacementInserts : Prop :=
  ∀ (st : Store) (src : Source) (sp : Setpoint) (cl : ClaimList), ListOk cl → cl.counter < 4294967295 →
    (∀ x ∈ cl.claims, x.source ≠ src) →
    ∃ higher lower, cl.claims = higher ++ lower ∧
      (∀ x ∈ higher, sourceLevel st src ≤ x.level) ∧ (∀ x ∈ lower, x.level < sourceLevel st src) ∧
      (higher = [] →
        placeList st src sp cl =
          ⟨⟨src, sourceLevel st src, sp, cl.counter + 1, .absent, true⟩ ::
            (match lower with
              | [] => []
              | x :: l => { x with hold := startHold st x.source } :: l), cl.counter + 1⟩) ∧
      (higher ≠ [] →
        placeList st src sp cl =
          ⟨higher ++ ⟨src, sourceLevel st src, sp, cl.counter + 1, startHold st src, false⟩ :: lower,
            cl.counter + 1⟩) ∧
      (claimKind src ≠ .oneShot → startHold st src = .absent) ∧
      (∀ n, src = .doorOpen n → startHold st src =
        if (st.get 46).toNat = 0 then .noLimit else .running (1000 * (st.get 46).toNat)) ∧
      (src = .doorKneel → startHold st src =
        if (st.get 47).toNat = 0 then .noLimit else .running (1000 * (st.get 47).toNat)) ∧
      (sourceLevel st .safe = 15 ∧ sourceLevel st .emerg = 14 ∧ sourceLevel st .centre = 13 ∧
        sourceLevel st (.entry (.fixed .f0)) = 12 ∧ sourceLevel st (.entry (.fixed .f1)) = 12 ∧
        sourceLevel st (.entry (.fixed .f2)) = 12 ∧ sourceLevel st (.entry (.fixed .f3)) = 11 ∧
        (∀ k : Fin 12, sourceLevel st (.entry (.prog k)) = (st.get (87 + 9 * k.val)).toNat) ∧
        sourceLevel st .doorHalt = (st.get 76).toNat ∧ sourceLevel st .doorKneel = (st.get 77).toNat ∧
        (∀ n, sourceLevel st (.doorOpen n) = (st.get 78).toNat) ∧ sourceLevel st .joint = 6 ∧
        sourceLevel st .lane = (st.get 79).toNat) ∧
      (claimKind src = .condition ↔ ∃ e, src = .entry e) ∧
      (claimKind src = .oneShot ↔ src = .doorKneel ∨ ∃ n, src = .doorOpen n)

/-- A re-placement replaces the record's setpoint and nothing else and advances the counter (R13); a withdrawal removes the
source's record, keeps the others in order and the counter, and the next record becomes holder with its timer discarded
and its mark set (R14, R16); a counter at its maximum is renumbered from the list first: the records take 1, 2 and so on in
list order and keep all else (R8). -/
def Obligations.RecordsReplacedAndWithdrawn : Prop :=
  (∀ (n : Nat) (l : List Claim), (renumber n l).length = l.length ∧
    ∀ (i : Nat) (x : Claim), l[i]? = some x → (renumber n l)[i]? = some { x with stamp := n + i }) ∧
  ∀ (st : Store) (src : Source) (sp : Setpoint) (cl : ClaimList),
    ((∃ x ∈ cl.claims, x.source = src) → cl.counter < 4294967295 →
      placeList st src sp cl =
        ⟨cl.claims.map fun x => if x.source = src then { x with setpoint := sp } else x, cl.counter + 1⟩) ∧
    (cl.counter = 4294967295 →
      (placeList st src sp cl).counter = cl.claims.length + 1 ∧
      placeList st src sp cl = placeList st src sp ⟨renumber 1 cl.claims, cl.claims.length⟩) ∧
    (withdrawList src cl).counter = cl.counter ∧
    ((∀ x ∈ cl.claims, x.source ≠ src) → withdrawList src cl = cl) ∧
    (∀ x l, cl.claims = x :: l →
      (x.source ≠ src → (withdrawList src cl).claims = x :: l.filter fun y => y.source ≠ src) ∧
      (x.source = src → (withdrawList src cl).claims =
        match l.filter fun y => y.source ≠ src with
        | [] => []
        | y :: m => { y with hold := .absent, hasHeld := true } :: m))

/-- CAU accepts a placement in an operating mode, on a fitted channel, from an eligible source; any other leaves the state
alone (R11). An accepted one stores the setpoint within the channel's domain and reaches no other channel. The holder is
the first record and the effective setpoint its setpoint, or the rest value of an empty list (R2, R9); a change of either
is announced, and nothing else is (R20). Then the domains of the classes (R1), the setpoint each source's placement takes
from the unit that computes it (R84, R99, R106, R113, R136 to R138, R177) and an entry's from its kind (R152, R153), and
the claim notices: CLAIM_TAKEN for a door source that becomes holder, CLAIM_DISPLACED for one that is displaced and stays
(R16, R17, R21). Last the channels that each source may claim, by the table of R4 with the target sets of R144 and R145 and
the kneel group of R111. The rest values are H, 0, I_max, HOLD_PRESENT and OFF (R1). A withdrawal is taken in every mode (R14),
and a rewrite of one unit on one channel is one event: it gives each standing record the setpoint handed over for its source
within the channel's domain, creates no record, leaves order, stamps, counter and holder, and is announced when it moved the
effective setpoint (R19, R89). Placements, withdrawals and rewrites on several channels are one event each, in the order
given (R11, R14). -/
def Obligations.PlacementsTakenByCau : Prop :=
  ∀ (s : State) (src : Source) (c : Channel),
    let t := placeClaim src c s
    (¬ (s.mode.operating = true ∧ s.store.chanFitted c = true ∧ eligible s.store src c = true) → t = s) ∧
    (s.mode.operating = true → s.store.chanFitted c = true → eligible s.store src c = true →
      t.cau.get c = placeList s.store src (s.store.toDomain c (placementSetpoint s src c)) (s.cau.get c) ∧
      (∀ d, d ≠ c → t.cau.get d = s.cau.get d) ∧
      t.inFlight = s.inFlight ++
        (if s.holder c = t.holder c ∧ s.effective c = t.effective c then []
         else [.channel c (t.holder c) (t.effective c) (decide (s.holder c ≠ t.holder c))])) ∧
    ((s.cau.get c).claims = [] → s.holder c = none ∧ s.effective c = s.store.rest c) ∧
    (∀ x l, (s.cau.get c).claims = x :: l → s.holder c = some x.source ∧ s.effective c = x.setpoint) ∧
    (let rests (c : Channel) (sp : Setpoint) : Prop := s.store.rest c = sp
     (∀ x, rests (.brk x) (.num (s.store.get 21))) ∧ rests .str (.num 0) ∧ rests .jnt (.num (s.store.get 33)) ∧
     (∀ k, rests (.lvl k) .holdPresent) ∧ ∀ d, rests (.drel d) .off) ∧
    (∀ n,
      (∀ x, s.store.toDomain (.brk x) (.num n) = .num (clamp 0 850 n)) ∧
      s.store.toDomain .str (.num n) = .num (clamp (-s.store.deltaMax) s.store.deltaMax n) ∧
      s.store.toDomain .jnt (.num n) = .num (clamp s.store.iBase s.store.iMax n) ∧
      (∀ k, s.store.toDomain (.lvl k) (.num n) = .num (clamp (-150) 150 n) ∧
        s.store.toDomain (.lvl k) .holdPresent = .holdPresent) ∧
      (∀ d, s.store.toDomain (.drel d) .on = .on ∧ s.store.toDomain (.drel d) .off = .off)) ∧
    (let gives (src : Source) (c : Channel) (sp : Setpoint) : Prop := placementSetpoint s src c = sp
     let floor (x : Axle) (v : Int) : Int := if s.bau.floor = true ∧ x ≠ .a then max v s.store.haltP else v
     (∀ x v, (∀ e, src ≠ .entry e) → brakeSetpoint s.store s.bau x src = some v → gives src (.brk x) (.num v)) ∧
     gives .lane .str (.num s.sju.target) ∧ gives .safe .str (.num 0) ∧ gives .centre .str (.num 0) ∧
     gives .joint .jnt (.num s.sju.current) ∧ gives .safe .jnt (.num s.store.iMax) ∧
     (∀ k, gives .lane (.lvl k) (.num s.lku.hLane) ∧ gives .doorKneel (.lvl k) (.num s.store.kneelHeight) ∧
       gives .safe (.lvl k) .holdPresent) ∧
     (∀ d, gives (.doorOpen d) (.drel d) .on ∧ gives .safe (.drel d) .off) ∧
     ∀ e,
       let kind := (entryFields s.store e).kind
       (kind = .halt → ∀ x,
         gives (.entry e) (.brk x) (.num (max (pressure s.store s.bau x s.bau.demand) s.store.haltP))) ∧
       (kind = .off → ∀ d, gives (.entry e) (.drel d) .off) ∧
       (kind = .centre → gives (.entry e) .str (.num 0)) ∧
       (kind = .followBase → ∀ k, gives (.entry e) (.lvl k) (.num s.lku.hLane)) ∧
       (kind = .holdPresent →
         gives (.entry e) .str (s.effective .str) ∧ gives (.entry e) .jnt (s.effective .jnt) ∧
         (∀ k, gives (.entry e) (.lvl k) (s.effective (.lvl k))) ∧
         ∀ x v, s.effective (.brk x) = .num v → gives (.entry e) (.brk x) (.num (floor x v))) ∧
       (∀ n, kind = .value n →
         gives (.entry e) .str (.num n) ∧ gives (.entry e) .jnt (.num n) ∧ (∀ k, gives (.entry e) (.lvl k) (.num n)) ∧
         (∀ x, gives (.entry e) (.brk x) (.num (floor x (clamp 0 850 n)))) ∧
         (n = 0 → ∀ d, gives (.entry e) (.drel d) .off))) ∧
    (let noticed (u : State) : Prop :=
       (u.holder c = s.holder c → u.mpi = s.mpi) ∧
       (u.holder c ≠ s.holder c → u.mpi = offerMany s.store
         ((match u.holder c with
           | some x => if isDoorSource x = true then [.claimTaken (channelBit c) x] else []
           | none => []) ++
         (match s.holder c with
           | some x => if isDoorSource x = true ∧ ∃ y ∈ (u.cau.get c).claims, y.source = x
             then [.claimDisplaced (channelBit c) x] else []
           | none => [])) s.mpi)
     noticed t ∧ noticed (withdrawClaim src c s) ∧ (channelBit c).toNat = 2 ^ chanNo c ∧
     (isDoorSource src = true ↔ src = .doorHalt ∨ src = .doorKneel ∨ ∃ n, src = .doorOpen n)) ∧
    (let may (src : Source) (p : Prop) : Prop := eligible s.store src c = true ↔ p
     let rear := c = .brk .b ∨ c = .brk .c
     may .safe True ∧ may .emerg (∃ x, c = .brk x) ∧ may .centre (c = .str) ∧
     may (.entry (.fixed .f0)) rear ∧ may (.entry (.fixed .f1)) (∃ n, c = .drel n) ∧ may (.entry (.fixed .f2)) rear ∧
     may (.entry (.fixed .f3)) (∃ k, c = .lvl k ∧ s.store.inGroup k = true) ∧
     (∀ k : Fin 12, may (.entry (.prog k)) ((s.store.get (86 + 9 * k.val)).toNat.testBit (chanNo c) = true)) ∧
     may .doorHalt rear ∧ may .doorKneel (∃ k, c = .lvl k ∧ s.store.inGroup k = true) ∧
     (∀ n, may (.doorOpen n) (c = .drel n)) ∧ may .joint (c = .jnt) ∧
     may .lane ((∃ x, c = .brk x) ∨ c = .str ∨ ∃ k, c = .lvl k) ∧
     (∀ k, s.store.inGroup k = (s.store.get 43).toNat.testBit (5 + cornerNo k)) ∧
     [Channel.brk .a, .brk .b, .brk .c, .str, .jnt, .lvl .al, .lvl .ar, .lvl .bl, .lvl .br, .lvl .cl, .lvl .cr, .drel .d1,
       .drel .d2, .drel .d3, .drel .d4].map chanNo = List.range 15) ∧
    (let announced (u : State) : List Ev := if s.holder c = u.holder c ∧ s.effective c = u.effective c then []
       else [.channel c (u.holder c) (u.effective c) (decide (s.holder c ≠ u.holder c))]
     let w := withdrawClaim src c s
     { t with cau := s.cau, mpi := s.mpi, inFlight := s.inFlight, bau := { t.bau with given := s.bau.given } } = s ∧
     w.cau = s.cau.set c (withdrawList src (s.cau.get c)) ∧ w.inFlight = s.inFlight ++ announced w ∧
     { w with cau := s.cau, mpi := s.mpi, inFlight := s.inFlight } = s ∧
     (∀ f : Source → Option Setpoint,
       let u := rewriteChannel c f s
       u.cau = s.cau.set c { s.cau.get c with claims := (s.cau.get c).claims.map fun x => match f x.source with
         | some sp => { x with setpoint := s.store.toDomain c sp }
         | none => x } ∧
       u.holder c = s.holder c ∧
       u.inFlight = s.inFlight ++
         (if s.effective c = u.effective c then [] else [.channel c (s.holder c) (u.effective c) false]) ∧
       { u with cau := s.cau, inFlight := s.inFlight } = s) ∧
     placeClaims src [] s = s ∧ withdrawClaims src [] s = s ∧ (∀ f, rewriteChannels [] f s = s) ∧
     ∀ cs, placeClaims src (c :: cs) s = placeClaims src cs t ∧ withdrawClaims src (c :: cs) s = withdrawClaims src cs w ∧
       ∀ f, rewriteChannels (c :: cs) f s = rewriteChannels cs f (rewriteChannel c (f c) s))

/-- An expired hold limit takes its record out of the list and raises CLAIM_EXPIRED for a door source; the record is not
holder (by `ListsOk`), so holder and effective setpoint stay and nothing is announced. With no such timer running nothing
is done (R18; the last clause is the model's, Log 4). -/
def Obligations.HoldLimitExpires : Prop :=
  ∀ (c : Channel) (src : Source) (s : State),
    (holdRuns src (s.cau.get c).claims = true → s.holder c ≠ some src →
      ∃ u, exec (.holdLimitExpiry c src) s = .next (complete u) ∧
        (u.cau.get c).claims = (s.cau.get c).claims.filter (fun x => x.source ≠ src) ∧
        (u.cau.get c).counter = (s.cau.get c).counter ∧
        (∀ d, d ≠ c → u.cau.get d = s.cau.get d) ∧
        u.holder c = s.holder c ∧ u.effective c = s.effective c ∧ u.inFlight = s.inFlight ∧
        u.mpi = (if isDoorSource src then offerPorts s.store (.claimExpired (channelBit c) src) s.mpi else s.mpi) ∧
        { u with cau := s.cau, mpi := s.mpi } = s) ∧
    (holdRuns src (s.cau.get c).claims = false →
      exec (.holdLimitExpiry c src) s = .next (complete s))

/-! Modes and configuration -/

/-- CONFIG_WRITE is judged in the order of R180: mode, item, lock, refused enumeration value; a taken write stores what
the store's write gives, clears both ready marks and answers the stored value. Then what a write stores: a value clamped to
its item's range, a flag as 1, the nearest member of a set of values and midway the larger (3.1, R129), the pairs that
bound each other (R73, R94), the four lowest corners of a kneel group (R111), and the refused enumerations of an entry
(R144); and what the owning block does: a load set from N_a (R73), SJU's values clamped (R94), a refitted node reset and its
change of state announced (R59, R50), the
history emptied (R68), the angle condition cleared (R95), h_lane formed (R111), the doors formed again (R129). That the
third byte counts for the setpoint kind alone is the model's (Log 15), and so is that a STR_C node made not fitted while LOST
ends the node condition (Log 32), that what a write of the joint flag announces stands in this order (Log 1), and that an
already empty history is announced as emptied (Log 24). A write of any other item moves nothing but the store, the marks and
the rest values announced. -/
def Obligations.ConfigWriteJudged : Prop :=
  (∀ (p : Port) (r item v0 v1 v2 : Byte) (s : State), Passes p r lanePorts s →
    let refused (res : Result) : Prop :=
      exec (.configWrite p r item v0 v1 v2) s = .next (answer p 0x11 ⟨res, []⟩ (closeTransfer p s))
    let held := item.toNat < 240 ∧ item.toNat ≠ 189
    (s.mode ≠ .config → refused .refusedState) ∧
    (s.mode = .config → ¬ held → refused .refusedArg) ∧
    (s.mode = .config → held → s.mc.locked = true → refused .refusedLocked) ∧
    (s.mode = .config → held → s.mc.locked = false → s.store.write item.toNat v0 v1 v2 = none →
      refused .refusedArg) ∧
    (s.mode = .config → held → s.mc.locked = false → s.inFlight = [] →
      ∀ st, s.store.write item.toNat v0 v1 v2 = some st →
        ∃ t, exec (.configWrite p r item v0 v1 v2) s = .next (answer p 0x11 ⟨.ok, st.bytes item.toNat⟩ t) ∧
          t.store = st ∧ t.mc.locked = false ∧ t.mc.ready = ⟨none, none⟩ ∧ t.lv = s.lv ∧
          t = complete (blockActs item.toNat s.store (announce (restEvents s st)
            { closeTransfer p s with mc := { s.mc with store := st, ready := ⟨none, none⟩ } })))) ∧
  (∀ (s : State) (new : Store) (e : Ev), e ∈ restEvents s new ↔ ∃ c,
    effectiveOf new c (s.cau.get c).claims ≠ s.effective c ∧
      e = .channel c (s.holder c) (effectiveOf new c (s.cau.get c).claims) false) ∧
  (∀ (st : Store) (n m : Nat) (x : Int), storeWf st.items = true →
    (st.put n x).get m = if m = n then x else st.get m) ∧
  (∀ (st : Store) (v0 v1 v2 : Byte),
    let v : Int := (v0 ++ v1).toNat
    let stores (n : Nat) (x : Int) : Prop := st.write n v0 v1 v2 = some (st.put n x)
    (∀ i ∈ [((21 : Nat), (0 : Int), (600 : Int)), (22, 0, 800), (23, 100, 800), (28, 20, 200), (29, 1, 50),
      (30, 300, 600), (31, 200, 600), (34, 0, 255), (37, 0, 100), (38, 0, 80), (39, 0, 1200), (40, 3, 20), (41, 1, 10),
      (42, 5, 60), (45, 2, 15), (46, 0, 30), (47, 0, 30), (48, 1, 4), (50, 50, 1000), (51, 200, 5000), (52, 20, 200),
      (53, 50, 2000), (54, 0, 2), (55, 0, 200), (56, 0, 100), (57, 1, 15), (58, 100, 2000), (60, 100, 1000),
      (61, 1, 8), (73, 10, 200), (74, 2, 50), (76, 1, 10), (77, 1, 10), (78, 1, 10), (79, 1, 11)],
      stores i.1 (clamp i.2.1 i.2.2 v)) ∧
    (∀ i ∈ [((24 : Nat), (-2048 : Int), (2047 : Int)), (25, -2048, 2047), (44, -120, 0)],
      stores i.1 (clamp i.2.1 i.2.2 (v0 ++ v1).toInt)) ∧
    (∀ x, let b := axleBase x
      stores b (clamp 0 4095 v) ∧ stores (b + 1) (clamp 0 2000 v) ∧
      stores (b + 2) (min (clamp 100 2500 v) (st.get (b + 3))) ∧
      stores (b + 3) (max (clamp 100 2500 v) (st.get (b + 2))) ∧ stores (b + 4) (clamp 100 2500 v) ∧
      stores (b + 5) (clamp 1 65535 v) ∧ stores (b + 6) (clamp 0 100 v)) ∧
    (clamp 0 1190 v < st.get 27 → stores 26 (clamp 0 1190 v)) ∧
    (st.get 27 ≤ clamp 0 1190 v →
      st.write 26 v0 v1 v2 = some ((st.put 26 (clamp 0 1190 v)).put 27 (clamp 0 1190 v + 10))) ∧
    stores 27 (if st.get 26 < clamp 10 1200 v then clamp 10 1200 v else st.get 26 + 10) ∧
    stores 32 (min (clamp 0 500 v) (st.get 33)) ∧ stores 33 (max (clamp 0 1000 v) (st.get 32)) ∧
    stores 49 (if v ≤ 5 then 2 else 10) ∧
    (∀ i ∈ [((59 : Nat), [(2 : Int), 5, 10, 20]), (75, [1, 4, 16, 64])], ∃ m ∈ i.2, stores i.1 m ∧
      ∀ m' ∈ i.2, |v - m| < |v - m'| ∨ |v - m| = |v - m'| ∧ m' ≤ m) ∧
    (∃ g : Nat, stores 43 g ∧ ∀ i, g.testBit i = true ↔ 5 ≤ i ∧ i ≤ 10 ∧ v.toNat.testBit i = true ∧
      ((List.range i).filter fun j => decide (5 ≤ j) && v.toNat.testBit j).length < 4) ∧
    (∀ n, n = 35 ∨ n = 36 ∨ n = 230 ∨ (209 ≤ n ∧ n ≤ 229 ∧ n ≠ 211 ∧ n ≠ 221) → stores n (if v = 0 then 0 else 1)) ∧
    (∀ n, 62 ≤ n → n ≤ 72 → stores n (clamp 1 15 v)) ∧
    (∀ n, 188 ≤ n → n ≤ 208 → n ≠ 189 → stores n (if n = 190 ∨ n = 200 then 2 else clamp 0 2 v)) ∧
    (∀ n, n = 211 ∨ n = 221 → stores n 0) ∧
    (∀ n, 231 ≤ n → n ≤ 239 →
      stores n (if n = 231 ∨ n = 232 then ((v.toNat &&& 7) ||| 3 : Nat) else (v.toNat &&& 7 : Nat))) ∧
    (∀ k : Fin 12, let b := 80 + 9 * k.val
      (st.write b v0 v1 v2 = if v ≤ 6 then some (st.put b v) else none) ∧
      (st.write (b + 1) v0 v1 v2 = if v ≤ 3 then some (st.put (b + 1) v) else none) ∧
      stores (b + 2) (clamp 0 1200 v) ∧ stores (b + 3) (clamp 0 100 v) ∧ stores (b + 4) (v.toNat &&& 15 : Nat) ∧
      stores (b + 5) (v.toNat &&& 7 : Nat) ∧ stores (b + 6) (v.toNat &&& 32767 : Nat) ∧ stores (b + 7) (clamp 1 11 v) ∧
      (st.write (b + 8) v0 v1 v2 =
        if v0.toNat < 5 then some (st.put (b + 8) (65536 * v0.toNat))
        else if v0.toNat = 5 then some (st.put (b + 8) (65536 * 5 + (v1 ++ v2).toNat)) else none))) ∧
  (∀ (s : State) (old : Store),
    let acts (n : Nat) : State := blockActs n old s
    let changed (n : Nat) : Prop := s.store.get n ≠ old.get n
    (∀ x i, i < 7 → (¬ changed (axleBase x + i) → acts (axleBase x + i) = s) ∧
      (changed (axleBase x + i) → (acts (axleBase x + i)).bau.load =
        s.bau.load.set x (clamp (s.store.lMin x) (s.store.lMax x) (s.store.nA x)))) ∧
    acts 28 = { s with sju := { s.sju with lastSent := clamp (-s.store.deltaMax) s.store.deltaMax s.sju.lastSent } } ∧
    (∀ n, n = 32 ∨ n = 33 →
      acts n = { s with sju := { s.sju with current := clamp s.store.iBase s.store.iMax s.sju.current } }) ∧
    (∀ n, n = 35 ∨ n = 36 ∨ n = 48 ∨ n = 59 → ¬ changed n → acts n = s) ∧
    (let refits (n : Node) : State := { s with
       flc := { s.flc with
         nodes := s.flc.nodes.set n ⟨.unpolled, 0, 0, 0, 0, 0⟩
         left := if s.store.nodeFitted n = true then s.flc.left else s.flc.left.filter (· ≠ n) }
       inFlight := s.inFlight ++ if (s.flc.nodes.get n).state = .unpolled then [] else [.node n .unpolled] }
     (changed 35 → acts 35 = refits .str) ∧
     (changed 36 →
       let u := announce [.theta s.mru.theta s.mru.rate false false]
         { refits .jnt with mru := { s.mru with history := [], rateValid := false } }
       acts 36 = if s.store.get 36 = 0 then setCentring { s.sju.centring with angle := false } u else u)) ∧
    (changed 59 → acts 59 = announce [.theta s.mru.theta s.mru.rate false false]
      { s with mru := { s.mru with history := [], rateValid := false } }) ∧
    (∀ n, n = 37 ∨ n = 38 ∨ n = 39 → (acts n).lku = { s.lku with hLane := hLaneOf s.store s.lku }) ∧
    (changed 48 → acts 48 = formDoors { s.dsv with
      reports := .of fun n => if s.store.doorFitted n = true then s.dsv.reports.get n else .unknown } s) ∧
    (∀ x i, i < 7 → changed (axleBase x + i) →
      let l := clamp (s.store.lMin x) (s.store.lMax x) (s.store.nA x)
      acts (axleBase x + i) = if s.bau.load.get x = l then s
        else bauRecompute { s with bau := { s.bau with load := s.bau.load.set x l } }) ∧
    (∀ n, n = 37 ∨ n = 38 ∨ n = 39 → acts n = formHLane s.lku s) ∧
    ∀ n, 21 ≤ n → n ∉ [28, 32, 33, 35, 36, 37, 38, 39, 48, 59] → acts n = s)

/-- ENTER_RUN: REFUSED_STATE outside CONFIG and STANDBY; a digest that differs is answered with the store's; the first
matching lane's mark is set for 1000 ms; the second starts the validation, whose first failing check and number are
answered with both marks cleared, and which else takes the mode to RUN with the store locked (R182, R183). Then the digest:
each held item in ascending number gives its number and its value bytes, and the CRC-16 of polynomial 1021h and initial value
FFFFh takes each byte most significant bit first, with no final inversion (R181). That an answer OK carries no data, where
R181 says that ENTER_RUN reports the digest, is the model's reading (Log 26). -/
def Obligations.EnterRunJudged : Prop :=
  (∀ (x : Lane) (r : Byte) (digest : Word) (s : State), Passes (lanePort x) r lanePorts s →
    let p := lanePort x
    let c := closeTransfer p s
    let here := s.mode = .config ∨ s.mode = .standby
    (¬ here → exec (.enterRun p r digest) s = .next (answer p 0x13 ⟨.refusedState, []⟩ c)) ∧
    (here → s.store.digest ≠ digest →
      exec (.enterRun p r digest) s = .next (answer p 0x13 ⟨.refusedDigest, word s.store.digest.toNat⟩ c)) ∧
    (here → s.store.digest = digest → s.mc.ready.get (otherLane x) = none →
      exec (.enterRun p r digest) s =
        .next (answer p 0x13 ⟨.ok, []⟩ { c with mc := { s.mc with ready := s.mc.ready.set x (some 1000) } })) ∧
    (here → s.store.digest = digest → s.mc.ready.get (otherLane x) ≠ none →
      (∀ check number, validation s = some (check, number) →
        exec (.enterRun p r digest) s =
          .next (answer p 0x13 ⟨.refusedState, [byte check, byte number]⟩
            { c with mc := { s.mc with ready := ⟨none, none⟩ } })) ∧
      (validation s = none →
        ∃ u, exec (.enterRun p r digest) s = .next (answer p 0x13 ⟨.ok, []⟩ (complete u)) ∧
          u.mode = .run ∧ u.mc.locked = true ∧ u.mc.ready = ⟨none, none⟩ ∧ u.store = s.store ∧
          u.mpi = offerPorts s.store (.modeChanged s.mode .run) c.mpi ∧
          u.inFlight = s.inFlight ++ [.mode s.mode .run] ∧
          { u with mc := s.mc, mpi := s.mpi, inFlight := s.inFlight } = s))) ∧
  (∀ st : Store,
    st.digest = crc16 (((List.range 240).filter (· ≠ 189)).flatMap fun n => BitVec.ofNat 8 n :: st.bytes n)) ∧
  crc16 [] = 0xFFFF ∧
  ∀ (l : List Byte) (b : Byte),
    let bit (r : BitVec 16) (_ : Nat) : BitVec 16 := if r.msb = true then (r <<< 1) ^^^ 0x1021 else r <<< 1
    crc16 (l ++ [b]) = (List.range 8).foldl bit (crc16 l ^^^ (b.setWidth 16 <<< 8))

/-- The five checks of the validation in their order, each with the lowest number that fails it (R183). Then what the
third and the fourth judge: the count of the sources eligible on a channel, fixed and group sources by the table of R6 and
each programmable entry whose target set holds it, and the kinds that suit a channel's class (R152, R154). -/
def Obligations.ValidationChecks : Prop :=
  ∀ s : State,
    let fatal (k : FaultKind) : Prop := s.fu.has k = true ∧ s.store.severity k = .fatal
    let down (n : Node) : Prop := s.store.nodeFitted n = true ∧ (s.flc.nodes.get n).state ≠ .active
    let full (c : Channel) : Prop := 8 < eligibleCount s.store c
    let unfit (e : Fin 12) : Prop :=
      ∃ c, s.store.entryTargets e c = true ∧ compatible (s.store.entryKind e) c = false
    (∀ k, fatal k → (∀ j, j.no < k.no → ¬ fatal j) → validation s = some (1, k.no)) ∧
    ((∀ k, ¬ fatal k) →
      (∀ n, down n → (∀ m, nodeNo m < nodeNo n → ¬ down m) → validation s = some (2, nodeNo n)) ∧
      ((∀ n, ¬ down n) →
        (∀ c, full c → (∀ d, chanNo d < chanNo c → ¬ full d) → validation s = some (3, chanNo c)) ∧
        ((∀ c, ¬ full c) →
          (∀ e, unfit e → (∀ f, f < e → ¬ unfit f) → validation s = some (4, e.val)) ∧
          ((∀ e, ¬ unfit e) → validation s = if s.store.groupList = [] then some (5, 43) else none)))) ∧
    (let progs (c : Channel) : Nat := ([(0 : Fin 12), 1, 2, 3, 4, 5, 6, 7, 8, 9, 10, 11].filter fun k =>
       (s.store.get (86 + 9 * k.val)).toNat.testBit (chanNo c)).length
     eligibleCount s.store (.brk .a) = 3 + progs (.brk .a) ∧ eligibleCount s.store (.brk .b) = 6 + progs (.brk .b) ∧
     eligibleCount s.store (.brk .c) = 6 + progs (.brk .c) ∧ eligibleCount s.store .str = 3 + progs .str ∧
     eligibleCount s.store .jnt = 2 + progs .jnt ∧
     (∀ k, eligibleCount s.store (.lvl k) = (if s.store.inGroup k = true then 4 else 2) + progs (.lvl k)) ∧
     (∀ n, eligibleCount s.store (.drel n) = 3 + progs (.drel n)) ∧
     (∀ (e : Fin 12) (c : Channel), s.store.entryTargets e c = (s.store.get (86 + 9 * e.val)).toNat.testBit (chanNo c))) ∧
    (let suits (k : SpKind) (c : Channel) (p : Prop) : Prop := compatible k c = true ↔ p
     let door (c : Channel) : Prop := ∃ n, c = .drel n
     ∀ c, suits .halt c (∃ x, c = .brk x) ∧ suits .off c (door c) ∧ suits .centre c (c = .str) ∧
       suits .followBase c (∃ k, c = .lvl k) ∧ suits .holdPresent c (¬ door c) ∧
       ∀ n, suits (.value n) c (door c → n = 0)) ∧
    (∀ e : Fin 12, let v := (s.store.get (88 + 9 * e.val)).toNat
      let kinds : List SpKind := [.halt, .off, .centre, .followBase, .holdPresent]
      s.store.entryKind e = kinds.getD (v / 65536) (.value (BitVec.ofNat 16 v).toInt))

/-- MODE_REQUEST, row by row (R174): a code that names no mode; the modes no request takes; the mode in force; CONFIG and
SERVICE by one lane's request; and STANDBY by the pairing of R175 under the three conditions of R176. Then what the blocks
do when the mode change is taken: CAU clears the lists at CONFIG, SERVICE and STANDBY (R22); LV takes its values at STANDBY
and starts both lanes at an entry to RUN (R40, R30); FLC begins the shutdown handshake or starts the link (R55, R56, R42);
MRU, BAU and LKU empty what a standstill makes old (R70, R75, R126); BAU sets the loads at ENTER_RUN (R77); SJU judges its
mode condition and places S_JOINT (R102, R103, R106); ICT judges every entry in the new mode (R149, R155); MC places S_SAFE
at SAFE_STOP and lets the DREL channels follow at_rest (R177, R178). A mode change itself hands on MODE_CHANGED, announces
the mode, clears both ready marks except from CONFIG or STANDBY to RUN, closes the STANDBY window except between RUN and
DEGRADED, and closes the WARM_RESET window on an operating mode with at_rest clear (R173, R175). The order of the blocks is
the model's (Log 1), and that BAU keeps its copies of D_v and EMERG_v (Log 31), and the order of the DREL channels where S_SAFE
follows at_rest (Log 35). -/
def Obligations.ModeRequestJudged : Prop :=
  (∀ (x : Lane) (r code : Byte) (s : State), Passes (lanePort x) r lanePorts s →
    let p := lanePort x
    let c := closeTransfer p s
    let gives (res : Result) (t : State) : Prop := exec (.modeRequest p r code) s = .next (answer p 0x14 ⟨res, []⟩ t)
    let met := s.mc.atRest = true ∧ (∀ n, s.store.doorFitted n = true → s.mc.doors.get n = false) ∧
      s.mc.kneel = .normal
    (6 < code.toNat → gives .refusedArg c) ∧
    (code = 0 ∨ code = 3 ∨ code = 4 ∨ code = 5 → gives .ok c) ∧
    (code.toNat = s.mode.code → gives .ok c) ∧
    (code = 2 → s.mode = .config → gives .ok (complete (setMode .service c))) ∧
    (code = 2 → s.mode ≠ .config → s.mode ≠ .service → gives .refusedState c) ∧
    (code = 1 → s.mode = .service → gives .ok (complete (setMode .config c))) ∧
    (code = 1 → s.mode ≠ .config → s.mode ≠ .service → gives .refusedState c) ∧
    (code = 6 → s.mode = .config ∨ s.mode = .service ∨ s.mode = .safeStop → gives .refusedState c) ∧
    (code = 6 → s.mode = .run ∨ s.mode = .degraded →
      (¬ met → gives .refusedState { c with mc := { s.mc with standbyWin := none } }) ∧
      (met → (∀ w, s.mc.standbyWin = some w → w.lane = x) →
        gives .ok { c with mc := { s.mc with standbyWin := some ⟨x, 100⟩ } }) ∧
      (met → ∀ w, s.mc.standbyWin = some w → w.lane ≠ x →
        gives .ok (complete (setMode .standby { c with mc := { s.mc with standbyWin := none } }))))) ∧
  (∀ (new : Mode) (s : State),
    let inRun (m : Mode) := m = .run ∨ m = .degraded
    setMode new s = { s with
      mc := { s.mc with
        mode := new
        ready := if (s.mode = .config ∨ s.mode = .standby) ∧ new = .run then s.mc.ready else ⟨none, none⟩
        standbyWin := if inRun s.mode ∧ inRun new then s.mc.standbyWin else none
        resetWin := if (inRun new ∨ new = .safeStop) ∧ s.mc.atRest = false then none else s.mc.resetWin }
      mpi := offerPorts s.store (.modeChanged s.mode new) s.mpi
      inFlight := s.inFlight ++ [.mode s.mode new] }) ∧
  (∀ (prev new : Mode) (s : State),
    let cleared := if new = .config ∨ new = .service ∨ new = .standby then clearLists s else s
    let linked := flcMode prev new (lvMode prev new cleared)
    let rested := if new = .standby then mruStandby linked else linked
    let entry := new = .run ∧ (prev = .config ∨ prev = .standby)
    let doors : List Channel := [.drel .d1, .drel .d2, .drel .d3, .drel .d4]
    let sp0 : LaneSetpoint := ⟨0, false, 0, .centre, .normal⟩
    let lane0 : LaneState := ⟨sp0, none, .stale, .stopped⟩
    handle (.mode prev new) s =
      mcMode new (ictMode new (lkuMode new (sjuMode prev new (bauMode prev new rested)))) ∧
    (clearLists s).cau = .of (fun _ => ⟨[], 0⟩) ∧ (clearLists s).bau = { s.bau with given := [] } ∧
    (clearLists s).mpi = s.mpi ∧ (clearLists s).inFlight = s.inFlight ++ clearEvents s ∧
    (∀ e, e ∈ clearEvents s ↔ ∃ c, (s.holder c ≠ none ∨ s.effective c ≠ s.store.rest c) ∧
      e = .channel c none (s.store.rest c) (decide (s.holder c ≠ none))) ∧
    (new = .standby →
      lvMode prev new s = { s with lv := ⟨⟨lane0, lane0⟩, sp0, .held, ⟨0, 0, 0, 0, 0⟩, false, false⟩ }) ∧
    (entry → lvMode prev new s = { s with lv := { s.lv with
      lanes := .of fun x => { s.lv.lanes.get x with freshness := .stale, timer := .stage1 s.store.tStale }
      firstVoteDue := true
      placed := false } }) ∧
    (new ≠ .standby → ¬ entry → lvMode prev new s = s) ∧
    (new = .standby → flcMode prev new s = { s with flc := { s.flc with
      phase := .shutdown s.store.fittedNodes false
      timer := none
      inRound := false
      left := []
      roundPending := false } }) ∧
    (prev = .standby → new = .run →
      flcMode prev new s = { s with flc := { s.flc with phase := .shutdown [] true } }) ∧
    (prev = .powerup → new = .config → flcMode prev new s = { s with flc := { s.flc with
      phase := .polling
      timer := some s.store.tf
      inRound := true
      left := s.store.fittedNodes
      roundPending := false
      round := (s.flc.round + 1) % 65536
      testLive := s.flc.testLive || decide (s.flc.test.result = .running) } }) ∧
    (new ≠ .standby → prev ≠ .standby → prev ≠ .powerup → prev ≠ .service → flcMode prev new s = s) ∧
    mruStandby s = { s with mru := { s.mru with slots := ⟨none, none, none⟩, history := [], rateValid := false } } ∧
    ((bauMode prev new s).bau.mode = new ∧
      (bauMode prev new s).bau.load = (if entry
        then .of fun x => clamp (s.store.lMin x) (s.store.lMax x) (s.store.nA x) else s.bau.load) ∧
      (bauMode prev new s).bau.samples = (if new = .standby then .of fun _ => none else s.bau.samples) ∧
      (bauMode prev new s).bau.demand = s.bau.demand ∧ (bauMode prev new s).bau.emerg = s.bau.emerg) ∧
    (entry → sjuMode prev new s = centre (placeClaim .joint .jnt
      { s with sju := { s.sju with centring := { s.sju.centring with mode := false }, entered := true } })) ∧
    (new = .run → ¬ entry →
      sjuMode prev new s = centre { s with sju := { s.sju with centring := { s.sju.centring with mode := false } } }) ∧
    (new ≠ .run → sjuMode prev new s = setCentring { s.sju.centring with mode := decide (new = .degraded) } s) ∧
    ((lkuMode new s).lku.mode = new ∧ (lkuMode new s).lku.corners = if new = .standby
      then .of fun k => { s.lku.corners.get k with height := none } else s.lku.corners) ∧
    (new ≠ .standby → ictMode new s = judgeEntries Entry.all { s with ict := { s.ict with mode := new } }) ∧
    (new = .standby → ictMode new s =
      judgeEntries Entry.all { s with ict := { s.ict with mode := new, demand := 0, emerg := false } }) ∧
    (new = .safeStop → mcMode new s = placeClaims .safe ([.brk .a, .brk .b, .brk .c, .str, .jnt, .lvl .al, .lvl .ar,
      .lvl .bl, .lvl .br, .lvl .cl, .lvl .cr] ++ if s.mc.atRest = true then [] else doors) s) ∧
    (new ≠ .safeStop → mcMode new s = s) ∧
    ∀ b : Bool,
      let u := { s with mc := { s.mc with atRest := b } }
      (s.mode ≠ .safeStop → mcAtRest b s = u) ∧
      (s.mode = .safeStop → (∃ m, Ev.mode m .safeStop ∈ s.inFlight) → mcAtRest b s = u) ∧
      (s.mode = .safeStop → (∀ m, Ev.mode m .safeStop ∉ s.inFlight) →
        mcAtRest b s = if b = true then withdrawClaims .safe doors u else placeClaims .safe doors u))

/-- WARM_RESET: its conditions are met at rest or outside the operating modes; unmet, it is refused and the window
closes; met, it opens or restarts its lane's window, and the other lane's request takes the warm reset (R175, R184). The
answer of the completing request is lost with the previous-frame results (R194; the model's reading, Log 13). -/
def Obligations.WarmResetPaired : Prop :=
  ∀ (x : Lane) (r : Byte) (s : State), Passes (lanePort x) r lanePorts s →
    let p := lanePort x
    let c := closeTransfer p s
    let met := s.mc.atRest = true ∨ s.mode.operating = false
    (¬ met → exec (.warmReset p r) s =
      .next (answer p 0x1A ⟨.refusedState, []⟩ { c with mc := { s.mc with resetWin := none } })) ∧
    (met → (∀ w, s.mc.resetWin = some w → w.lane = x) → exec (.warmReset p r) s =
      .next (answer p 0x1A ⟨.ok, []⟩ { c with mc := { s.mc with resetWin := some ⟨x, 100⟩ } })) ∧
    (met → ∀ w, s.mc.resetWin = some w → w.lane ≠ x →
      exec (.warmReset p r) s = .next (Machine.warmReset .request c))

/-- The falling edge of RSTn takes a warm reset in every mode but POWERUP; a power-on reset is taken in every mode. What
each leaves: mode, reset record, store and lock, FU's sticky state, lists, queues, lanes, the limiter's last sent value and
the follow mark, the link, and every value of MRU, BAU, SJU, LKU, DSV and ICT (R22, R40, R42, R58, R59, R71, R92, R109,
R127, R142, R155, R172, R184, R185, R194). After a warm reset the link runs: the transaction in flight is abandoned without
judgement, the first round has begun at once, and BRK_A's command with H, its rest value, is in flight (R42 to R44, R59). The values of the fields that no reset table lists are the model's (Log 8:
transfer, self-test node and pattern, MRU's copies of the node states, and the marks of LV, SJU, FLC and DSV), and so is
that the queue of commands is kept (Log 6). -/
def Obligations.ResetsTaken : Prop :=
  (∀ s : State, s.mode ≠ .powerup → exec .rstnWarmReset s = .next (Machine.warmReset .pin s)) ∧
  (∀ s : State, s.mode = .powerup → exec .rstnWarmReset s = .next s) ∧
  (∀ (cause : Cause) (s : State),
    let t := Machine.warmReset cause s
    t.mode = .config ∧ t.mc.resetMode = s.mode ∧ t.mc.resetCause = cause ∧ t.store = s.store ∧
    t.mc.locked = s.mc.locked ∧ t.mc.ready = ⟨none, none⟩ ∧ t.mc.standbyWin = none ∧ t.mc.resetWin = none ∧
    t.fu = s.fu ∧ (∀ c, t.cau.get c = ⟨[], 0⟩) ∧ t.lv = lvReset ∧ t.inFlight = [] ∧ t.pending = s.pending ∧
    (∀ p, (t.mpi.get p).queue = [] ∧ (t.mpi.get p).lost = false ∧
      (t.mpi.get p).answer = ⟨0x00, .ok, List.replicate 8 0⟩ ∧
      (t.mpi.get p).transfer = match (s.mpi.get p).transfer with
        | .active _ => .abandoned
        | u => u) ∧
    t.sju.lastSent = s.sju.lastSent ∧ t.sju.centring.follow = s.sju.centring.follow ∧
    t.mru.atRest = false ∧ t.mru.speedKnown = false ∧ (∀ n, t.dsv.outputs.get n = false) ∧
    (∀ n, t.dsv.unsecured.get n = s.store.doorFitted n) ∧
    (∀ n, t.flc.nodes.get n = ⟨.unpolled, 0, 0, 0, 0, 0⟩) ∧ t.flc.codes = 0 ∧ t.flc.round = 1 ∧
    t.flc.timer = some s.store.tf ∧ t.flc.driverHeldOff = false ∧ t.flc.roundPending = false ∧
    t.flc.test = (if s.flc.test.result = .running then { s.flc.test with result := .aborted } else s.flc.test) ∧
    t.flc.phase = .polling ∧ t.flc.inRound = true ∧ s.store.fittedNodes = .brk .a :: t.flc.left ∧
    t.flc.txn = some ⟨.brk .a, s.store.nodeAddr (.brk .a), .set, s.store.haltP, s.store.window, none⟩ ∧
    t.flc.testLive = false ∧ t.flc.abortDue = false ∧
    t.mru = ⟨.of fun _ => none, 0, 0, false, false, none, 0, [], 0, false, .of fun _ => .unpolled⟩ ∧
    t.bau = ⟨.of fun _ => none, .of fun _ => none, .of fun x => clamp (s.store.lMin x) (s.store.lMax x) (s.store.nA x),
      .of fun _ => false, .of fun _ => false, true, 0, false, false, .config, .of s.store.doorFitted, .normal, []⟩ ∧
    t.sju = ⟨0, 0, false, 0, .centre, 0, false, false, 0, 0, 0, 0, s.sju.lastSent, s.store.iMax, none,
      ⟨false, false, false, s.sju.centring.follow⟩, false⟩ ∧
    t.lku = ⟨.of fun _ => ⟨.hold, none, none, .holdPresent, false, none, none⟩, .normal, none, .normal, 0, false, false,
      .config, 0⟩ ∧
    t.dsv = ⟨.of fun _ => ⟨false, 0⟩, .of fun _ => .unknown, .of s.store.doorFitted, .of fun _ => none,
      .of fun _ => false, none, none, .of fun _ => false, .of fun _ => false, false, .normal⟩ ∧
    t.ict = ⟨0, 0, false, 0, 0, false, .normal, false, .of s.store.doorFitted, .config⟩ ∧
    t.mc.atRest = false ∧ t.mc.doors = .of s.store.doorFitted ∧ t.mc.kneel = .normal) ∧
  (∀ s : State, ∃ t, exec .powerOnReset s = .next t ∧
    t = { State.reset with
      pending := s.pending
      freeCount := s.freeCount
      mpi := .of fun p => ⟨⟨0x00, .ok, List.replicate 8 0⟩, [], false, match (s.mpi.get p).transfer with
        | .active _ => .abandoned
        | u => u⟩ })

/-- Initialisation completes in POWERUP: the mode becomes CONFIG, it is announced, and no MODE_CHANGED is raised; in any
other mode there is nothing to complete (R173; the last clause is the model's, Log 4). From the power-on state the link
starts with its first round and BRK_A's command in flight (R42, R43). FLD_DE holds the driver disabled just while the link
is stopped, as it is at reset (R42; its level within a round is bit timing, Log 5). -/
def Obligations.InitialisationCompletes : Prop :=
  (∀ s : State, s.mode = .powerup →
    ∃ u, exec .initialisationComplete s = .next (complete u) ∧ u.mode = .config ∧ u.mpi = s.mpi ∧
      u.inFlight = s.inFlight ++ [.mode .powerup .config] ∧ { u with mc := s.mc, inFlight := s.inFlight } = s) ∧
  (∀ s : State, s.mode ≠ .powerup → exec .initialisationComplete s = .next s) ∧
  (∃ t, exec .initialisationComplete State.reset = .next t ∧ t.mode = .config ∧ t.mpi = State.reset.mpi ∧
    t.flc.phase = .polling ∧ t.flc.round = 1 ∧ t.flc.timer = some 5 ∧
    t.flc.txn = some ⟨.brk .a, 1, .set, 250, 300, none⟩ ∧ t.flc.driverHeldOff = false) ∧
  State.reset.flc.driverHeldOff = true ∧ (∀ f : Flc, f.driverHeldOff = true ↔ f.phase = .stopped)

/-- RECOVER: REFUSED_STATE outside DEGRADED; there FLC first re-admits each LOST node with miss count 0, then the four
conditions are judged in order, the first unmet is answered by its number, and if none fails the mode becomes RUN (R49,
R179). Each re-admission is announced, in ascending channel order (R50; the order is the model's, Log 35). That what the
re-admission announces is taken before the judgement is the model's reading (Log 12). -/
def Obligations.RecoverJudged : Prop :=
  (∀ (p : Port) (r : Byte) (s : State), Passes p r lanePorts s →
    let c := closeTransfer p s
    let u := settle settleLimit (readmit c)
    (s.mode ≠ .degraded → exec (.recover p r) s = .next (answer p 0x15 ⟨.refusedState, []⟩ c)) ∧
    (s.mode = .degraded → ∀ n, recoverUnmet u = some n →
      exec (.recover p r) s = .next (answer p 0x15 ⟨.refusedState, [byte n]⟩ (complete u))) ∧
    (s.mode = .degraded → recoverUnmet u = none →
      exec (.recover p r) s = .next (answer p 0x15 ⟨.ok, []⟩ (complete (setMode .run u))))) ∧
  (∀ (s : State) (n : Node),
    (readmit s).flc.nodes.get n =
      if (s.flc.nodes.get n).state = .lost ∧ (s.flc.nodes.get n).misses = 0
      then { s.flc.nodes.get n with state := .active } else s.flc.nodes.get n) ∧
  (∀ s : State,
    readmit s = [Node.brk .a, .brk .b, .brk .c, .str, .jnt, .lvl .al, .lvl .ar, .lvl .bl, .lvl .br, .lvl .cl,
      .lvl .cr].foldl (fun (t : State) n => if (t.flc.nodes.get n).state = .lost ∧ (t.flc.nodes.get n).misses = 0
        then { t with
          flc := { t.flc with nodes := t.flc.nodes.set n { t.flc.nodes.get n with state := .active } }
          inFlight := t.inFlight ++ [.node n .active] }
        else t) s) ∧
  (∀ s : State,
    let fresh := ∀ x, (s.lv.lanes.get x).freshness = .fresh
    let serious := ∃ k, s.fu.has k = true ∧ s.store.severity k ≠ .correctable
    let active := ∀ n, s.store.nodeFitted n = true → (s.flc.nodes.get n).state = .active
    (¬ fresh → recoverUnmet s = some 1) ∧
    (fresh → s.fu.capture ≠ none → recoverUnmet s = some 2) ∧
    (fresh → s.fu.capture = none → serious → recoverUnmet s = some 3) ∧
    (fresh → s.fu.capture = none → ¬ serious → ¬ active → recoverUnmet s = some 4) ∧
    (fresh → s.fu.capture = none → ¬ serious → active → recoverUnmet s = none))

/-! Faults -/

/-- What a detection does (R158 to R166): nothing in POWERUP; else the class flag is judged before the status is set, the
class identifier takes the source, an unmasked kind fills an empty pointer, a DEGRADE or FATAL kind is captured or finds
the record full, and the mode follows the applied severity. Then its notices: FAULT_RAISED with the applied severity and
the mode after, if the kind is unmasked, CAPTURE_FULL if it was captured, then MODE_CHANGED if the mode changed, with the
change announced and both ready marks cleared (R162, R163, R166, R173). -/
def Obligations.DetectionRecorded : Prop :=
  ∀ (k : FaultKind) (src : FaultSource) (ch : Option Channel) (item : List Byte) (s : State),
    let t := detect k src ch item s
    let corr := s.store.severity k = .correctable
    (s.mode = .powerup → t = s) ∧
    (s.mode ≠ .powerup →
      (∀ j, t.fu.has j = true ↔ j = k ∨ s.fu.has j = true) ∧
      (corr → t.fu.idCorr = some src ∧ t.fu.idUncorr = s.fu.idUncorr ∧ t.fu.multiUncorr = s.fu.multiUncorr ∧
        (t.fu.multiCorr = true ↔ s.fu.multiCorr = true ∨
          ∃ j, s.fu.has j = true ∧ s.store.severity j = .correctable) ∧
        t.fu.capture = s.fu.capture ∧ t.fu.captureMultiple = s.fu.captureMultiple ∧
        t.flc.codes = s.flc.codes ∧ t.mode = s.mode) ∧
      (¬ corr → t.fu.idUncorr = some src ∧ t.fu.idCorr = s.fu.idCorr ∧ t.fu.multiCorr = s.fu.multiCorr ∧
        (t.fu.multiUncorr = true ↔ s.fu.multiUncorr = true ∨
          ∃ j, s.fu.has j = true ∧ s.store.severity j ≠ .correctable)) ∧
      (¬ corr → s.fu.capture = none →
        t.fu.capture = some ⟨k, src, s.mode, s.mru.v, s.mru.speedKnown, s.mru.atRest, s.mru.theta,
          ch.map fun c => ⟨c, s.holder c, s.effective c⟩, s.flc.codes⟩ ∧
        t.fu.captureMultiple = s.fu.captureMultiple ∧ t.flc.codes = 0 ∧
        t.mode = modeAfter (s.store.severity k) s.mode) ∧
      (¬ corr → s.fu.capture ≠ none →
        t.fu.capture = s.fu.capture ∧ t.fu.captureMultiple = true ∧ t.flc.codes = s.flc.codes ∧
        t.mode = modeAfter
          (if s.store.promote = true ∧ s.store.severity k = .degrade ∧ s.mode.operating = true then .fatal
           else s.store.severity k) s.mode) ∧
      t.fu.log = (if s.fu.log = none ∧ s.store.masked k = false then some ⟨k, src, ch, k.itemKind, item⟩
        else s.fu.log)) ∧
    (∀ m, modeAfter .correctable m = m) ∧
    (modeAfter .degrade .run = .degraded ∧ ∀ m, m ≠ .run → modeAfter .degrade m = m) ∧
    (modeAfter .fatal .run = .safeStop ∧ modeAfter .fatal .degraded = .safeStop ∧
      modeAfter .fatal .service = .safeStop ∧
      ∀ m, m ≠ .run → m ≠ .degraded → m ≠ .service → modeAfter .fatal m = m) ∧
    { t with fu := s.fu, flc := s.flc, mc := s.mc, mpi := s.mpi, inFlight := s.inFlight } = s ∧
    (s.mode ≠ .powerup →
      let applied : Severity := if s.fu.capture ≠ none ∧ s.store.promote = true ∧ s.store.severity k = .degrade ∧
        s.mode.operating = true then .fatal else s.store.severity k
      let after := modeAfter applied s.mode
      let told := offerMany s.store
        ((if s.store.masked k = true then [] else [.faultRaised (kindBit k) src applied after]) ++
          if s.store.severity k ≠ .correctable ∧ s.fu.capture = none then [.captureFull k src] else []) s.mpi
      (kindBit k).toNat = 2 ^ k.no ∧ t.mode = after ∧
      (after = s.mode → t.mpi = told ∧ t.inFlight = s.inFlight ∧ t.mc = s.mc) ∧
      (after ≠ s.mode → t.mpi = offerPorts s.store (.modeChanged s.mode after) told ∧
        t.inFlight = s.inFlight ++ [.mode s.mode after] ∧ t.mc.ready = ⟨none, none⟩))

/-- ACK_CAPTURE empties the capture record and clears CAPTURE_MULTIPLE, answers OK and touches nothing else; the next
DEGRADE or FATAL detection is captured and not promoted (R169). -/
def Obligations.CaptureAcknowledged : Prop :=
  (∀ (p : Port) (r : Byte) (s : State), Passes p r lanePorts s →
    exec (.ackCapture p r) s =
      .next (answer p 0x16 ⟨.ok, []⟩
        { closeTransfer p s with fu := { s.fu with capture := none, captureMultiple := false } })) ∧
  (∀ (st : Store) (f : Fu) (m : Mode) (k : FaultKind), st.severity k ≠ .correctable →
    captures st (fuAcked f) k = true ∧ promoted st (fuAcked f) m k = false)

/-- CLEAR_FAULT clears the statuses of its set, empties a pointer that names a member, clears the flag and identifier of
each class left with no status, and with FOLLOW_ERROR clears the steering follow mark; it answers the statuses left; a set
that names a kind outside 0 to 20 is refused, and an empty set changes nothing (R167). That the refusal answers with data 00h
is the model's choice (Log 36). -/
def Obligations.FaultsCleared : Prop :=
  ∀ (p : Port) (r : Byte) (ks : BitVec 24) (s : State), Passes p r lanePorts s →
    (2097152 ≤ ks.toNat → exec (.clearFault p r ks) s = .next (answer p 0x19 ⟨.refusedArg, []⟩ (closeTransfer p s))) ∧
    (ks = 0 → exec (.clearFault p r ks) s =
      .next (answer p 0x19 ⟨.ok, set3 s.fu.status.toNat⟩ (closeTransfer p s))) ∧
    (ks ≠ 0 → ks.toNat < 2097152 → s.inFlight = [] →
      ∃ t, exec (.clearFault p r ks) s = .next (answer p 0x19 ⟨.ok, set3 t.fu.status.toNat⟩ t) ∧
        (∀ k, t.fu.has k = true ↔ s.fu.has k = true ∧ ks.getLsbD k.no = false) ∧
        (∀ l, s.fu.log = some l → t.fu.log = if ks.getLsbD l.kind.no then none else some l) ∧
        (s.fu.log = none → t.fu.log = none) ∧
        ((∀ k, t.fu.has k = true → s.store.severity k ≠ .correctable) →
          t.fu.multiCorr = false ∧ t.fu.idCorr = none) ∧
        ((∃ k, t.fu.has k = true ∧ s.store.severity k = .correctable) →
          t.fu.multiCorr = s.fu.multiCorr ∧ t.fu.idCorr = s.fu.idCorr) ∧
        ((∀ k, t.fu.has k = true → s.store.severity k = .correctable) →
          t.fu.multiUncorr = false ∧ t.fu.idUncorr = none) ∧
        ((∃ k, t.fu.has k = true ∧ s.store.severity k ≠ .correctable) →
          t.fu.multiUncorr = s.fu.multiUncorr ∧ t.fu.idUncorr = s.fu.idUncorr) ∧
        t.fu.capture = s.fu.capture ∧ t.fu.captureMultiple = s.fu.captureMultiple ∧ t.store = s.store ∧
        t.mode = s.mode ∧
        t.sju.centring.follow = (if ks.getLsbD 10 then false else s.sju.centring.follow))

/-! Field link -/

/-- The field cycle timer's expiry restarts it from Tf; with a round in progress the round-pending mark is set, else a
round begins with the round number up by 1 modulo 65,536 and every fitted node to be polled, and a self-test that was taken
goes live; a stopped timer does nothing (R43, R57; the last clause is the model's, Log 4). -/
def Obligations.FieldCycleExpires : Prop :=
  ∀ s : State,
    (s.flc.timer ≠ none → s.flc.inRound = true →
      exec .fieldCycleExpiry s =
        .next (complete { s with flc := { s.flc with timer := some s.store.tf, roundPending := true } })) ∧
    (s.flc.timer ≠ none → s.flc.inRound = false →
      exec .fieldCycleExpiry s =
        .next (complete { s with flc := { s.flc with
          timer := some s.store.tf
          round := (s.flc.round + 1) % 65536
          inRound := true
          left := s.store.fittedNodes
          testLive := s.flc.testLive || decide (s.flc.test.result = .running) } })) ∧
    (s.flc.timer = none → exec .fieldCycleExpiry s = .next (complete s))

/-- With no transaction in flight the link forms the next command of the round from the channel's class: brakes and joint
their effective setpoint, STR_C the limiter's next value, which becomes the last sent value, a level node its valve
command; the tested node gets ECHO with the pattern and the limiter does not step (R44, R57, R100). When no node of the round
is left the round ends: with the round-pending mark set the mark clears and the next round begins at once, its number up by 1
modulo 65,536, with every fitted node to be polled from BRK_A on and a self-test that was taken live; else no round is in
progress (R43, R57). While a transaction is in flight, or between rounds, the link begins nothing (R43). -/
def Obligations.CommandsFormed : Prop :=
  (∀ (s : State) (n : Node) (rest : List Node), s.flc.txn = none → s.flc.phase = .polling → s.flc.inRound = true →
    s.flc.left = n :: rest →
    let t := advance s
    let echo := s.flc.testLive = true ∧ s.flc.test.result = .running ∧ s.flc.test.node = n
    t.flc.left = rest ∧
    (echo → t.flc.txn =
      some ⟨n, s.store.nodeAddr n, .echo, s.flc.test.pattern.toNat, s.store.window, none⟩ ∧ t.sju = s.sju) ∧
    (¬ echo →
      ∃ v, t.flc.txn = some ⟨n, s.store.nodeAddr n, .set, v, s.store.window, none⟩ ∧
        (∀ x, n = .brk x → s.effective (.brk x) = .num v ∨ ∀ m, s.effective (.brk x) ≠ .num m) ∧
        (n = .str → v = limitStep s.store s.sju ∧ t.sju = { s.sju with lastSent := v }) ∧
        (n ≠ .str → t.sju = s.sju) ∧
        (n = .jnt → s.effective .jnt = .num v ∨ ∀ m, s.effective .jnt ≠ .num m) ∧
        (∀ k, n = .lvl k → v = match (s.lku.corners.get k).valve with
          | .hold => 0
          | .fill => 1
          | .exhaust => 2)) ∧
    { t with sju := s.sju, flc := s.flc } = s) ∧
  (∀ s : State, s.flc.txn = none → s.flc.phase = .polling → s.flc.inRound = true → s.flc.left = [] →
    let begun : State := { s with flc := { s.flc with
      roundPending := false
      round := (s.flc.round + 1) % 65536
      left := s.store.fittedNodes
      testLive := s.flc.testLive || decide (s.flc.test.result = .running) } }
    (s.flc.roundPending = true → advance s = advance begun ∧ ∃ rest, begun.flc.left = .brk .a :: rest) ∧
    (s.flc.roundPending = false → advance s = { s with flc := { s.flc with inRound := false } })) ∧
  (∀ s : State, s.flc.phase = .polling → s.flc.inRound = false → advance s = s) ∧
  (∀ (s : State) (x : Txn), s.flc.txn = some x → advance s = s)

/-- A good SET or ECHO response: miss count 0, the state of R48's list, a non-zero code recorded as the node's last code
(R51), the follow count of a brake or steering node stepped against the value commanded (R53), the last measurements
clamped (R46); no other node's record changes. A non-zero code raises NODE_SENSOR, NODE_ACTUATOR or NODE_CODE (R51, R54)
and joins the code accumulator (R52), FOLLOW_ERROR is raised as the follow count reaches 20 (R53, R54), and the
measurements go to MRU, BAU and LKU unless the code is 3 (R46, R51). A change of the node's state is announced (R50), and an
ECHO response is judged and hands on nothing but, from JNT, that no sample came (R57, R66). That a LOST node which answers in STANDBY stays LOST
is the model's reading (Log 18), that the faults come in this order among the hand-offs its choice (Log 28), and that
measurement 2 of STR_C is kept as 0 (Log 24). The model's choices too are that a history already empty is announced as emptied at each
report of no sample (Log 24), that what a SET in flight at the entry to STANDBY brings is handed on (Log 29), and that the
end of the transaction of a node fitted again meanwhile is taken as any other (Log 17). With no SET or ECHO in flight there is no such event (Log 4). That the code joins the accumulator before the fault of its response is captured,
where R52 leaves either order, is its choice (Log 34). The one-byte node address of the item and the accumulator's bit c for code c
are the model's too (Log 14). -/
def Obligations.GoodResponseTaken : Prop :=
  (∀ (s : State) (x : Txn) (code : Fin 8) (m1 m2 : Word), s.inFlight = [] → InTransaction s x →
    let r := s.flc.nodes.get x.node
    let exceeds (tol achieved : Int) : Nat := if tol < |achieved - x.value| then min 20 (r.follow + 1) else 0
    ∃ t, exec (.fieldResponseReceived code m1 m2) s = .next t ∧
      (t.flc.nodes.get x.node).misses = 0 ∧
      ((t.flc.nodes.get x.node).state = match r.state with
        | .lost => if s.mode = .config ∨ s.mode = .service then .active else .lost
        | _ => .active) ∧
      (t.flc.nodes.get x.node).lastCode = (if code = 0 then r.lastCode else code.val) ∧
      ((t.flc.nodes.get x.node).follow =
        if x.kind = .echo ∨ code = 3 then r.follow
        else match x.node with
          | .brk _ => exceeds s.store.brakeTol (clamp 0 1000 m1.toNat)
          | .str => exceeds s.store.steerTol m1.toInt
          | _ => r.follow) ∧
      (∀ n, n ≠ x.node → t.flc.nodes.get n = s.flc.nodes.get n) ∧
      (((t.flc.nodes.get x.node).m1, (t.flc.nodes.get x.node).m2) =
        if x.kind = .echo ∨ code = 3 then (r.m1, r.m2)
        else match x.node with
          | .brk _ => (clamp 0 1000 m1.toNat, clamp 0 1200 m2.toNat)
          | .str => (m1.toInt, 0)
          | .jnt => (m1.toInt, (m2.toNat : Int))
          | .lvl _ => (clamp (-150) 150 m1.toInt, clamp 0 1000 m2.toNat)) ∧
      (s.mode ≠ .powerup →
        (code = 3 → t.fu.has .nodeSensor = true) ∧ (code = 4 → t.fu.has .nodeActuator = true) ∧
        (code ≠ 0 → code ≠ 3 → code ≠ 4 → t.fu.has .nodeCode = true) ∧
        (r.follow = 19 → (t.flc.nodes.get x.node).follow = 20 → t.fu.has .followError = true)) ∧
      t = complete (afterTxn (goodResponse x code.val m1 m2 (endTxn s)))) ∧
  (∀ (s : State) (x : Txn) (code : Nat) (m1 m2 : Word),
    let r := s.flc.nodes.get x.node
    let state := match r.state with
      | .lost => if s.mode = .config ∨ s.mode = .service then NodeState.active else .lost
      | _ => .active
    let coded := takeCode x code m1 m2 (setNode x.node { r with misses := 0, state := state } s)
    (∀ n r, setNode n r s = { s with
      flc := { s.flc with nodes := s.flc.nodes.set n r }
      inFlight := s.inFlight ++ if (s.flc.nodes.get n).state = r.state then [] else [.node n r.state] }) ∧
    (x.kind ≠ .echo → goodResponse x code m1 m2 s = setResponse x code m1 m2 coded) ∧
    (x.kind = .echo → goodResponse x code m1 m2 s =
      let judged := echoEnd true (decide (code = 0 ∧ m1 = s.flc.test.pattern)) coded
      if x.node = .jnt then emptyHistory judged else judged)) ∧
  (∀ s : State, emptyHistory s = announce [.theta s.mru.theta s.mru.rate false false]
    { s with mru := { s.mru with history := [], rateValid := false } }) ∧
  (∀ (s : State) (x : Txn) (code : Nat) (m1 m2 : Word),
    let measured (a b : Int) : State := { s with flc := { s.flc with
      nodes := s.flc.nodes.set x.node { s.flc.nodes.get x.node with m1 := a, m2 := b } } }
    let item := [byte x.address, byte code] ++ word m1.toNat ++ word m2.toNat
    let follows (tol achieved : Int) (u : State) : State :=
      let before := (u.flc.nodes.get x.node).follow
      let after := if tol < |achieved - x.value| then min 20 (before + 1) else 0
      let w := { u with flc := { u.flc with
        nodes := u.flc.nodes.set x.node { u.flc.nodes.get x.node with follow := after } } }
      if before = 19 ∧ after = 20 then
        let raised := detect .followError (.node x.node) (some x.node.channel) (item ++ wordInt x.value) w
        if x.node = .str then announce [.followMark true] raised else raised
      else w
    (code = 0 → takeCode x code m1 m2 s = s) ∧
    (code ≠ 0 → takeCode x code m1 m2 s =
      detect (if code = 3 then .nodeSensor else if code = 4 then .nodeActuator else .nodeCode) (.node x.node)
        (some x.node.channel) item { s with flc := { s.flc with
          nodes := s.flc.nodes.set x.node { s.flc.nodes.get x.node with lastCode := code }
          codes := s.flc.codes ||| BitVec.ofNat 8 (2 ^ code) } }) ∧
    (code = 3 → setResponse x code m1 m2 s = match x.node with
      | .brk axle => brakeEnd axle s.flc.round none s
      | .jnt => emptyHistory s
      | _ => s) ∧
    (code ≠ 3 → setResponse x code m1 m2 s = match x.node with
      | .brk axle =>
        let p := clamp 0 1000 m1.toNat
        let v := clamp 0 1200 m2.toNat
        follows s.store.brakeTol p (brakeEnd axle s.flc.round (some v) (measured p v))
      | .str => follows s.store.steerTol m1.toInt (measured m1.toInt 0)
      | .jnt => jointSample m1.toInt (measured m1.toInt m2.toNat)
      | .lvl k =>
        let h := clamp (-150) 150 m1.toInt
        let p := clamp 0 1000 m2.toNat
        levelResponse k h p (measured h p))) ∧
  (∀ (s : State) (code : Fin 8) (m1 m2 : Word), (∀ x, s.flc.txn = some x → x.kind = .shutdown) →
    exec (.fieldResponseReceived code m1 m2) s = .next (complete s))

/-- A miss of a SET or ECHO transaction raises the miss count by 1, stopping at 255, raises FIELD_MISS, and at the miss
limit takes an UNPOLLED or ACTIVE node to LOST with NODE_LOST, and BRAKE_CAPACITY when another brake node is LOST; last
code and follow count stay, and no other node's record changes (R47, R50). Then what it hands on: MRU is told of the end of
a brake SET transaction without a sample (R60), and of a joint transaction of either kind that it gave none, which empties
the history and leaves the rate invalid (R66); the other nodes' units are told nothing. The faults come in the order of R54, each
with its source, the node's channel and its item: the command sent, the miss kind, for NODE_LOST the miss count, and for
BRAKE_CAPACITY, whose source is FLC, the lost-axle set; the change of state is announced (R50), and an ECHO is judged (R57).
That MRU takes the end after the faults, and that the faults are captured before the announcements are taken, is the model's
choice (Log 28, Log 30); so are the one-byte address and the numbers of the miss kinds in the item (Log 14), that a history
already empty is announced as emptied at each joint miss (Log 24), that a miss in flight at the entry to STANDBY makes its
recompute (Log 29), and that the miss of a node fitted again meanwhile is taken as any other (Log 17). With no SET or ECHO in flight there
is no such event (Log 4). -/
def Obligations.MissTaken : Prop :=
  (∀ (s : State) (x : Txn) (k : MissKind), s.inFlight = [] → InTransaction s x →
    let r := s.flc.nodes.get x.node
    let n := min 255 (r.misses + 1)
    ∃ t, exec (.responseWindowEnd k) s = .next t ∧
      t.flc.nodes.get x.node =
        { r with misses := n, state := if s.store.missLimit ≤ n then .lost else r.state } ∧
      (∀ m, m ≠ x.node → t.flc.nodes.get m = s.flc.nodes.get m) ∧
      (s.mode ≠ .powerup →
        t.fu.has .fieldMiss = true ∧
        (s.store.missLimit ≤ n → r.state ≠ .lost → t.fu.has .nodeLost = true ∧
          ∀ axle other, x.node = .brk axle → other ≠ axle → (s.flc.nodes.get (.brk other)).state = .lost →
            t.fu.has .brakeCapacity = true)) ∧
      t = complete (afterTxn (missResponse x k (endTxn s)))) ∧
  (∀ (s : State) (x : Txn) (k : MissKind), ∃ u : State, u.mru = s.mru ∧ u.flc.round = s.flc.round ∧ u.store = s.store ∧
    u.bau.samples = s.bau.samples ∧ u.lku = s.lku ∧
    missResponse x k s = match x.node, x.kind with
      | .brk axle, .set => brakeEnd axle s.flc.round none u
      | .jnt, _ => announce [.theta s.mru.theta s.mru.rate false false]
          { u with mru := { s.mru with history := [], rateValid := false } }
      | _, _ => u) ∧
  (∀ (s : State) (x : Txn) (k : MissKind),
    let r := s.flc.nodes.get x.node
    let n := min 255 (r.misses + 1)
    let state := if s.store.missLimit ≤ n then NodeState.lost else r.state
    let item := [byte x.address, byte x.kind.code] ++ wordInt x.value ++ [byte (missCode k)]
    let channel := some x.node.channel
    let missed := detect .fieldMiss (.node x.node) channel item (setNode x.node { r with misses := n, state := state } s)
    let lost := detect .nodeLost (.node x.node) channel (item ++ [byte n]) missed
    let axles : PerAxle Bool := .of fun y => decide ((lost.flc.nodes.get (.brk y)).state = .lost)
    let others := ∃ y ∈ [Axle.a, .b, .c], Node.brk y ≠ x.node ∧ axles.get y = true
    let capacity := if (∃ y ∈ [Axle.a, .b, .c], Node.brk y = x.node) ∧ others
      then detect .brakeCapacity .flc channel [axleSet axles] lost else lost
    let faulted := if r.state ≠ .lost ∧ state = .lost then capacity else missed
    let judged := if x.kind = .echo then echoEnd false false faulted else faulted
    missResponse x k s = match x.node, x.kind with
      | .brk axle, .set => brakeEnd axle s.flc.round none judged
      | .jnt, _ => emptyHistory judged
      | _, _ => judged) ∧
  (∀ (s : State) (k : MissKind), (∀ x, s.flc.txn = some x → x.kind = .shutdown) →
    exec (.responseWindowEnd k) s = .next (complete s))

/-- The shutdown handshake: a good frame with code 0 ends the transaction; any other code waits for T_ack; at T_ack the
acknowledge has failed, SHUTDOWN_ACK_MISSING is raised from the node with its channel, the command sent and the failure kind
(R54), and a CODE failure records the code as the node's last code and adds it to the accumulator; miss counts, states and
follow counts stay (R55; the numbers in the item are the model's, Log 14, and that the code is kept until T_ack is the model's reading, Log 9).
That the code is added before the fault is captured, where R52 leaves either order, is its choice (Log 34). With no
transaction in flight the handshake asks the next node, and when none is left the link stops, or starts with a round where
an entry to RUN waits (R55, R56, R42). With no SHUTDOWN in flight there is neither event (the model's, Log 4). -/
def Obligations.ShutdownAcknowledged : Prop :=
  (∀ (s : State) (x : Txn), InShutdown s x →
    exec (.shutdownAckReceived 0) s = .next (complete { s with flc := { s.flc with txn := none } }) ∧
    (∀ code : Fin 8, code ≠ 0 →
      exec (.shutdownAckReceived code) s =
        .next (complete { s with flc := { s.flc with txn := some { x with code := some (x.code.getD code) } } })) ∧
    (∀ k : MissKind,
      let ended : Flc := match x.code with
        | some c => { s.flc with
          txn := none
          nodes := s.flc.nodes.set x.node { s.flc.nodes.get x.node with lastCode := c.val }
          codes := s.flc.codes ||| BitVec.ofNat 8 (2 ^ c.val) }
        | none => { s.flc with txn := none }
      let failure := if x.code = none then missCode k else 3
      exec (.tAckExpiry k) s = .next (complete (detect .shutdownAckMissing (.node x.node) (some x.node.channel)
        ([byte x.address, 3] ++ wordInt x.value ++ [byte failure]) { s with flc := ended }))) ∧
    (∀ k : MissKind, s.inFlight = [] →
      ∃ t, exec (.tAckExpiry k) s = .next t ∧
        (s.mode ≠ .powerup → t.fu.has .shutdownAckMissing = true) ∧
        t.flc.nodes.get x.node =
          (match x.code with
            | some c => { s.flc.nodes.get x.node with lastCode := c.val }
            | none => s.flc.nodes.get x.node) ∧
        ∀ n, n ≠ x.node → t.flc.nodes.get n = s.flc.nodes.get n)) ∧
  (∀ s : State, s.flc.txn = none →
    (∀ n rest start, s.flc.phase = .shutdown (n :: rest) start → advance s = { s with flc := { s.flc with
      phase := .shutdown rest start
      txn := some ⟨n, s.store.nodeAddr n, .shutdown, 0, s.store.tAck, none⟩ } }) ∧
    (s.flc.phase = .shutdown [] false → advance s = { s with flc := { s.flc with phase := .stopped } }) ∧
    (s.flc.phase = .stopped → advance s = s) ∧
    (s.flc.phase = .shutdown [] true → (advance s).flc.phase = .polling ∧ (advance s).flc.timer = some s.store.tf ∧
      (advance s).flc.round = (s.flc.round + 1) % 65536 ∧ (advance s).flc.txn.isSome = true)) ∧
  (∀ s : State, (∀ x, s.flc.txn = some x → x.kind ≠ .shutdown) →
    (∀ code : Fin 8, exec (.shutdownAckReceived code) s = .next (complete s)) ∧
    ∀ k : MissKind, exec (.tAckExpiry k) s = .next (complete s))

/-- TEST_FIELD in SERVICE with no self-test running sets the result record for a fitted node, the count clamped to 12 to
255; in any other mode, or while a test runs, REFUSED_STATE; for an absent or unfitted node, REFUSED_ARG (R57). Then the
test's progress: each ECHO transaction counts one echo sent, a response one received, and the first that fails gives the
first mismatch (R57); at the end of the count PASS, or FAIL with SELF_TEST_FAIL, and TEST_DONE; on leaving SERVICE the
transaction in flight ends, is judged if it was an ECHO, and the result is ABORTED with TEST_DONE (R58, R54). That the echo
which ends the count gives PASS or FAIL also where its own fault leaves SERVICE is the model's choice (Log 27), and so is that
nothing else comes of a transaction whose node a CONFIG_WRITE has made not fitted (Log 17). -/
def Obligations.SelfTestTaken : Prop :=
  (∀ (p : Port) (r node : Byte) (pattern : Word) (count : Byte) (s : State), Passes p r lanePorts s →
    let c := closeTransfer p s
    let refused (res : Result) : Prop :=
      exec (.testField p r node pattern count) s = .next (answer p 0x1B ⟨res, []⟩ c)
    (s.mode ≠ .service ∨ s.flc.test.result = .running → refused .refusedState) ∧
    (s.mode = .service → s.flc.test.result ≠ .running →
      (∀ n, nodeNo n = node.toNat → s.store.nodeFitted n = true →
        exec (.testField p r node pattern count) s =
          .next (answer p 0x1B ⟨.ok, []⟩ { c with flc := { s.flc with
            test := ⟨.running, n, pattern, max 12 count.toNat, 0, 0, none⟩
            testLive := false
            abortDue := false } })) ∧
      ((∀ n, nodeNo n = node.toNat → s.store.nodeFitted n = false) → refused .refusedArg))) ∧
  (∀ (received matched : Bool) (s : State),
    let r := s.flc.test
    let judged : SelfTest := { r with
      sent := r.sent + 1
      received := r.received + (if received = true then 1 else 0)
      mismatch := if r.mismatch ≠ none ∨ matched = true then r.mismatch else some (r.sent + 1) }
    let ended (result : TestResult) : State :=
      { s with flc := { s.flc with test := { judged with result := result }, testLive := false, abortDue := false } }
    let t := echoEnd received matched s
    (judged.sent ≠ r.count ∨ s.flc.abortDue = true → t = { s with flc := { s.flc with test := judged } }) ∧
    (judged.sent = r.count → s.flc.abortDue = false → judged.mismatch = none →
      t = offer (.testDone .pass r.node) (ended .pass)) ∧
    (judged.sent = r.count → s.flc.abortDue = false → judged.mismatch ≠ none →
      t = offer (.testDone .fail r.node) (detect .selfTestFail (.node r.node) (some r.node.channel)
        ([byte TestResult.fail.code, byte (nodeNo r.node)] ++ word r.pattern.toNat ++
          [byte r.count, byte judged.sent, byte judged.received, byte (judged.mismatch.getD 0)]) (ended .fail)))) ∧
  (∀ (s : State) (x : Txn) (code : Nat) (m1 m2 : Word) (k : MissKind), x.kind = .echo →
    (∃ u, goodResponse x code m1 m2 s =
      noMeasure x.node .echo (echoEnd true (decide (code = 0 ∧ m1 = s.flc.test.pattern)) u) ∧ u.flc.test = s.flc.test) ∧
    (∃ u, missResponse x k s = noMeasure x.node .echo (echoEnd false false u) ∧ u.flc.test = s.flc.test)) ∧
  (∀ (s : State) (x : Txn) (code : Fin 8) (m1 m2 : Word) (k : MissKind), s.flc.txn = some x →
    s.store.nodeFitted x.node = false →
    let ended : State := { s with flc := { s.flc with txn := none } }
    let responded (t : State) : Prop := exec (.fieldResponseReceived code m1 m2) s = .next (complete (afterTxn t))
    let missed (t : State) : Prop := exec (.responseWindowEnd k) s = .next (complete (afterTxn t))
    (x.kind = .echo → responded (echoEnd true (decide (code = 0 ∧ m1 = s.flc.test.pattern)) ended) ∧
      missed (echoEnd false false ended)) ∧
    (x.kind = .set → responded ended ∧ missed ended)) ∧
  (∀ (s : State) (new : Mode),
    let aborted := offer (.testDone .aborted s.flc.test.node) { s with flc := { s.flc with
      test := { s.flc.test with result := .aborted }, testLive := false, abortDue := false } }
    (new ≠ .standby → s.flc.test.result = .running → s.flc.txn = none → flcMode .service new s = aborted) ∧
    (new ≠ .standby → s.flc.test.result = .running → s.flc.txn ≠ none →
      flcMode .service new s = { s with flc := { s.flc with abortDue := true } }) ∧
    (new ≠ .standby → s.flc.test.result ≠ .running → flcMode .service new s = s) ∧
    (s.flc.abortDue = true → afterTxn s = aborted) ∧ (s.flc.abortDue = false → afterTxn s = s))

/-! Doors -/

/-- DOOR_STATUS stores each fitted door's report and UNKNOWN for the others, restarts the staleness timer and the time
since, forms the derived states of R133 again, and answers the contacts, UNSECURED doors, outputs, at_rest and kneel state
as they stand after the event (R131). A byte that names none of the five reports is stored as UNKNOWN. The change of the
UNSECURED doors is announced and raises DOOR_PERMIT as those states are formed (DoorStatesFormed). That the answer is read after all that the request causes has been taken is the
model's reading (Log 10). -/
def Obligations.DoorStatusTaken : Prop :=
  (∀ n : Nat, DoorReport.ofCode n = [DoorReport.closedLocked, .closed, .opened, .obstructed].getD n .unknown) ∧
  (∀ (p : Port) (r : Byte) (reports : PerDoor Byte) (s : State), Passes p r doorPort s →
    let stored : PerDoor DoorReport := .of fun n => if s.store.doorFitted n = true
      then DoorReport.ofCode (reports.get n).toNat else .unknown
    ∃ t, t = complete (formDoors { s.dsv with reports := stored, since := some 0, stale := some s.store.tDoorStale }
        (closeTransfer p s)) ∧
      exec (.doorStatus p r reports) s =
        .next (answer p 0x20 ⟨.ok, [doorSet (.of fun n => (t.dsv.contacts.get n).closed), doorSet t.dsv.unsecured,
          doorSet t.dsv.outputs, flag t.dsv.atRest, byte t.dsv.kneel.code]⟩ t)) ∧
  ∀ (p : Port) (r : Byte) (reports : PerDoor Byte) (s : State), Passes p r doorPort s → s.inFlight = [] →
    ∃ t, exec (.doorStatus p r reports) s =
        .next (answer p 0x20 ⟨.ok, [doorSet (.of fun n => (t.dsv.contacts.get n).closed), doorSet t.dsv.unsecured,
          doorSet t.dsv.outputs, flag t.dsv.atRest, byte t.dsv.kneel.code]⟩ t) ∧
      (∀ n, t.dsv.reports.get n =
        if s.store.doorFitted n = true then DoorReport.ofCode (reports.get n).toNat else .unknown) ∧
      t.dsv.since = some 0 ∧ t.dsv.stale = some s.store.tDoorStale ∧ t.dsv.contacts = s.dsv.contacts ∧
      (∀ n, t.dsv.unsecured.get n = true ↔
        s.store.doorFitted n = true ∧
          ¬ ((t.dsv.contacts.get n).closed = true ∧ t.dsv.reports.get n = .closedLocked))

/-- The derived states and the contradictions as DSV forms them: the table of R133, one announcement and one DOOR_PERMIT
exactly when the set of UNSECURED doors changes, and the timer table of R134. That a contradiction which has raised its
fault does not start the timer again before it has ended is the model's reading of R134 (Log 25). Then the release outputs:
an announcement of DREL_n stores DSV's copy, and at once each output is ON exactly when the copy of its setpoint is ON and
MRU's at_rest is set; a change of at_rest forms the outputs again and is announced (R139). DOOR_PERMIT is offered exactly
when an output, at_rest or the kneel state changes, one notice with the values after the event (R140). That the
recipients of one announcement take it in this order is the model's (Log 1). -/
def Obligations.DoorStatesFormed : Prop :=
  (∀ (d : Dsv) (s : State),
    let t := formDoors d s
    (∀ n, t.dsv.unsecured.get n = true ↔
      s.store.doorFitted n = true ∧ ¬ ((d.contacts.get n).closed = true ∧ d.reports.get n = .closedLocked)) ∧
    (∀ n,
      let contradicting := s.store.doorFitted n = true ∧
        (((d.contacts.get n).closed = true ∧ (d.reports.get n = .opened ∨ d.reports.get n = .obstructed)) ∨
          ((d.contacts.get n).closed = false ∧ d.reports.get n = .closedLocked))
      (contradicting → d.raised.get n = false →
        t.dsv.disagree.get n = some ((d.disagree.get n).getD s.store.tDoorDisagree)) ∧
      (contradicting → d.raised.get n = true → t.dsv.disagree.get n = none ∧ t.dsv.raised.get n = true) ∧
      (¬ contradicting → t.dsv.disagree.get n = none ∧ t.dsv.raised.get n = false)) ∧
    (t.dsv.unsecured = s.dsv.unsecured → t.inFlight = s.inFlight ∧ t.mpi = s.mpi) ∧
    (t.dsv.unsecured ≠ s.dsv.unsecured →
      t.inFlight = s.inFlight ++ [.doors t.dsv.unsecured] ∧
      t.mpi = offerPorts s.store (.doorPermit t.dsv.atRest t.dsv.outputs t.dsv.unsecured t.dsv.kneel) s.mpi) ∧
    { t with dsv := s.dsv, inFlight := s.inFlight, mpi := s.mpi } = s) ∧
  (∀ (n : Door) (holder : Option Source) (sp : Setpoint) (changed : Bool) (s : State),
    let t := handle (.channel (.drel n) holder sp changed) s
    let copies := s.dsv.releaseOn.set n (decide (sp = .on))
    let d : Dsv := { s.dsv with releaseOn := copies, outputs := .of fun m => copies.get m && s.mru.atRest }
    (t.dsv.outputs.get n = true ↔ sp = .on ∧ s.mru.atRest = true) ∧
    (d.outputs = s.dsv.outputs → t = { s with dsv := d }) ∧
    (d.outputs ≠ s.dsv.outputs → t = { s with
      dsv := d
      mpi := offerPorts s.store (.doorPermit d.atRest d.outputs d.unsecured d.kneel) s.mpi })) ∧
  (∀ (b : Bool) (s : State),
    let d : Dsv := { s.dsv with atRest := b, outputs := .of fun m => s.dsv.releaseOn.get m && b }
    (s.mru.atRest = b → setAtRest b s = s) ∧
    (s.mru.atRest ≠ b → setAtRest b s = { s with
      mru := { s.mru with atRest := b }
      dsv := d
      mpi := offerPorts s.store (.doorPermit b d.outputs d.unsecured d.kneel) s.mpi
      inFlight := s.inFlight ++ [.atRest b] })) ∧
  (∀ (k : KneelState) (s : State),
    let before := ictKneel k (bauFloor s.bau.doors k s)
    let after := dsvKneel k before
    handle (.kneel k) s = { after with mc := { after.mc with kneel := k } } ∧
    (before.dsv.kneel = k → after = before) ∧
    (before.dsv.kneel ≠ k → after = { before with
      dsv := { before.dsv with kneel := k }
      mpi := offerPorts before.store
        (.doorPermit before.dsv.atRest before.dsv.outputs before.dsv.unsecured k) before.mpi }))

/-- One sample of the four inputs: each contact's run count and debounced value follow the table of R130, fitted or not,
and a changed debounced value forms the derived states again and judges the contradictions again; in POWERUP no sample is
taken (R130). A change of the set of UNSECURED doors is announced and raises one DOOR_PERMIT with the values after the event;
without it nothing is announced or raised (R133, R140). A sample that changes no debounced value moves the run counts alone
(R130). That the disagreement timer runs for a standing contradiction just while `raised` is clear is the model's
reading of R134 (Log 25), and so is that the inputs are taken in the order DCL1 to DCL4, each with its consequences
(Log 21). -/
def Obligations.ContactsSampled : Prop :=
  (∀ (closed : PerDoor Bool) (s : State), s.mode = .powerup → exec (.contactSample closed) s = .next s) ∧
  (∀ (closed : PerDoor Bool) (s : State), s.mode ≠ .powerup → s.inFlight = [] →
    ∃ t, exec (.contactSample closed) s = .next t ∧
      (∀ n,
        let c := s.dsv.contacts.get n
        (closed.get n = c.closed → t.dsv.contacts.get n = ⟨c.closed, 0⟩) ∧
        (closed.get n ≠ c.closed → c.run + 1 < s.store.debounce →
          t.dsv.contacts.get n = ⟨c.closed, c.run + 1⟩) ∧
        (closed.get n ≠ c.closed → s.store.debounce ≤ c.run + 1 →
          t.dsv.contacts.get n = ⟨closed.get n, 0⟩)) ∧
      ((∃ n, (t.dsv.contacts.get n).closed ≠ (s.dsv.contacts.get n).closed) →
        ∀ n, t.dsv.unsecured.get n = doorUnsecured s.store t.dsv n ∧
          (t.dsv.disagree.get n ≠ none ↔ doorContradicts s.store t.dsv n = true ∧ t.dsv.raised.get n = false)) ∧
      t.dsv.reports = s.dsv.reports) ∧
  (∀ (closed : PerDoor Bool) (s : State), s.mode ≠ .powerup →
    let taken (n : Door) (u : State) : State := settle settleLimit (sampleContact n (closed.get n) u)
    exec (.contactSample closed) s = .next (complete (taken .d4 (taken .d3 (taken .d2 (taken .d1 s)))))) ∧
  (∀ (n : Door) (closed : Bool) (s : State),
    let c := s.dsv.contacts.get n
    let counted (run : Nat) : State :=
      { s with dsv := { s.dsv with contacts := s.dsv.contacts.set n ⟨c.closed, run⟩ } }
    let t := sampleContact n closed s
    (closed = c.closed → t = counted 0) ∧
    (closed ≠ c.closed → c.run + 1 < s.store.debounce → t = counted (c.run + 1)) ∧
    (closed ≠ c.closed → s.store.debounce ≤ c.run + 1 →
      t = formDoors { s.dsv with contacts := s.dsv.contacts.set n ⟨closed, 0⟩ } s ∧
      (∀ m, t.dsv.unsecured.get m = doorUnsecured s.store t.dsv m) ∧
      (t.dsv.unsecured = s.dsv.unsecured → t.inFlight = s.inFlight ∧ t.mpi = s.mpi) ∧
      (t.dsv.unsecured ≠ s.dsv.unsecured →
        t.inFlight = s.inFlight ++ [.doors t.dsv.unsecured] ∧
        t.mpi = offerPorts s.store (.doorPermit s.dsv.atRest s.dsv.outputs t.dsv.unsecured s.dsv.kneel) s.mpi) ∧
      { t with dsv := s.dsv, inFlight := s.inFlight, mpi := s.mpi } = s)) ∧
  (∀ (closed : PerDoor Bool) (s : State), s.mode ≠ .powerup → s.inFlight = [] →
    (∀ n, closed.get n = (s.dsv.contacts.get n).closed ∨ (s.dsv.contacts.get n).run + 1 < s.store.debounce) →
    exec (.contactSample closed) s = .next (complete { s with dsv := { s.dsv with contacts := .of fun n =>
      let c := s.dsv.contacts.get n
      ⟨c.closed, if closed.get n = c.closed then 0 else c.run + 1⟩ } }))

/-- The staleness expiry stores UNKNOWN for every door, raises DOOR_LINK_STALE, makes every fitted door UNSECURED and stops
the timer (R132); a disagreement expiry raises DOOR_DISAGREE and stops that door's timer (R134), and sets the mark `raised`
by which the model reads that the standing contradiction raises nothing more (Log 25). Each fault has the source, the channel
and the item of R141: the four reports before the expiry, or the door, its contact and its report, and the time since the last
DOOR_STATUS, whose bytes are free while there is none (Log 7). The widths in the items are the model's packing (Log 14), and
that DOOR_LINK_STALE is captured before the states are formed its choice (Log 28). With the timer stopped nothing is done
(the model's, Log 4). -/
def Obligations.DoorTimersExpire : Prop :=
  ∀ s : State,
    (let heard (time : List Byte) : Prop := match s.dsv.since with
       | some ms => time = word ms
       | none => time.length = 2
     let drawn : State := { s with freeCount := s.freeCount + 1 }
     (s.dsv.stale ≠ none → ∃ time, heard time ∧
       let raised := detect .doorLinkStale (.port .d) none
         ([byte s.dsv.reports.d1.code, byte s.dsv.reports.d2.code, byte s.dsv.reports.d3.code,
           byte s.dsv.reports.d4.code] ++ time) drawn
       exec .doorStalenessExpiry s = .next (complete (formDoors
         { s.dsv with reports := .of fun _ => .unknown, stale := none } raised))) ∧
     (∀ n, s.dsv.disagree.get n ≠ none → ∃ time, heard time ∧
       exec (.doorDisagreeExpiry n) s = .next (complete (detect .doorDisagree .dsv (some (.drel n))
         ([byte (doorNo n), flag (s.dsv.contacts.get n).closed, byte (s.dsv.reports.get n).code] ++ time)
         { drawn with dsv := { s.dsv with
           disagree := s.dsv.disagree.set n none
           raised := s.dsv.raised.set n true } })))) ∧
    (s.dsv.stale ≠ none → s.inFlight = [] →
      ∃ t, exec .doorStalenessExpiry s = .next t ∧
        (s.mode ≠ .powerup → t.fu.has .doorLinkStale = true) ∧
        (∀ n, t.dsv.reports.get n = .unknown) ∧ t.dsv.stale = none ∧
        (∀ n, t.dsv.unsecured.get n = s.store.doorFitted n) ∧ t.dsv.contacts = s.dsv.contacts ∧
        t.dsv.since = s.dsv.since) ∧
    (s.dsv.stale = none → exec .doorStalenessExpiry s = .next (complete s)) ∧
    (∀ n, s.dsv.disagree.get n ≠ none → s.inFlight = [] →
      ∃ t, exec (.doorDisagreeExpiry n) s = .next t ∧
        (s.mode ≠ .powerup → t.fu.has .doorDisagree = true) ∧
        t.dsv.disagree.get n = none ∧ t.dsv.raised.get n = true ∧
        (∀ m, m ≠ n → t.dsv.disagree.get m = s.dsv.disagree.get m) ∧
        t.dsv.unsecured = s.dsv.unsecured ∧ t.dsv.reports = s.dsv.reports ∧ t.dsv.contacts = s.dsv.contacts) ∧
    (∀ n, s.dsv.disagree.get n = none → exec (.doorDisagreeExpiry n) s = .next (complete s))

/-- The six door-port requests: REFUSED_STATE outside the operating modes; DOOR_OPEN and DOOR_CLOSE of an absent or
unfitted door REFUSED_ARG; else the placements or withdrawals are handed to CAU and the answer carries the lists after the
request (R135 to R138; that what the request causes is taken before the answer is formed is the model's reading, Log 10, and
that a refusal answers with data 00h its choice, Log 33, as is
the order of the channels of one request, Log 35). The data of KNEEL_ON and KNEEL_OFF: the holder of each kneel-group
corner in ascending order, FFh in the places beyond the group up to four, and the set of the group corners that S_DOOR_KNEEL
holds (R135). -/
def Obligations.DoorRequestsTaken : Prop :=
  (∀ (p : Port) (r door : Byte) (s : State), Passes p r doorPort s →
    let c := closeTransfer p s
    let holder (t : State) (h : Channel) : List Byte := byte (holderCode (t.holder h)) :: setpointWord (t.effective h)
    (s.mode.operating = false →
      exec (.doorOpen p r door) s = .next (answer p 0x21 ⟨.refusedState, []⟩ c) ∧
      exec (.doorClose p r door) s = .next (answer p 0x22 ⟨.refusedState, []⟩ c) ∧
      exec (.haltOn p r) s = .next (answer p 0x23 ⟨.refusedState, []⟩ c) ∧
      exec (.haltOff p r) s = .next (answer p 0x24 ⟨.refusedState, []⟩ c) ∧
      exec (.kneelOn p r) s = .next (answer p 0x25 ⟨.refusedState, []⟩ c) ∧
      exec (.kneelOff p r) s = .next (answer p 0x26 ⟨.refusedState, []⟩ c)) ∧
    (s.mode.operating = true →
      ((∀ n, doorNo n = door.toNat → s.store.doorFitted n = false) →
        exec (.doorOpen p r door) s = .next (answer p 0x21 ⟨.refusedArg, []⟩ c) ∧
        exec (.doorClose p r door) s = .next (answer p 0x22 ⟨.refusedArg, []⟩ c)) ∧
      (∀ n, doorNo n = door.toNat → s.store.doorFitted n = true →
        (∃ t, t = complete (placeClaim (.doorOpen n) (.drel n) c) ∧
          exec (.doorOpen p r door) s = .next (answer p 0x21 ⟨.ok, holder t (.drel n)⟩ t)) ∧
        (placeClaim (.doorOpen n) (.drel n) c).cau.get (.drel n) =
          placeList s.store (.doorOpen n) .on (s.cau.get (.drel n)) ∧
        (∃ t, t = complete (withdrawClaim (.doorOpen n) (.drel n) c) ∧
          exec (.doorClose p r door) s = .next (answer p 0x22 ⟨.ok, holder t (.drel n)⟩ t))) ∧
      (∃ t, t = complete (placeClaim .doorHalt (.brk .c) (placeClaim .doorHalt (.brk .b) c)) ∧
        exec (.haltOn p r) s = .next (answer p 0x23 ⟨.ok, holder t (.brk .b) ++ holder t (.brk .c)⟩ t)) ∧
      (∃ t, t = complete (withdrawClaim .doorHalt (.brk .c) (withdrawClaim .doorHalt (.brk .b) c)) ∧
        exec (.haltOff p r) s = .next (answer p 0x24 ⟨.ok, holder t (.brk .b) ++ holder t (.brk .c)⟩ t)) ∧
      (∃ t, t = complete (placeClaims .doorKneel (s.store.groupList.map Channel.lvl) c) ∧
        exec (.kneelOn p r) s = .next (answer p 0x25 ⟨.ok, kneelData t⟩ t)) ∧
      (∃ t, t = complete (withdrawClaims .doorKneel (s.store.groupList.map Channel.lvl) c) ∧
        exec (.kneelOff p r) s = .next (answer p 0x26 ⟨.ok, kneelData t⟩ t)))) ∧
  (∀ t : State,
    let group := [Corner.al, .ar, .bl, .br, .cl, .cr].filter t.store.inGroup
    t.store.groupList = group ∧
    ∃ held : Byte, kneelData t = ((group.map fun k => byte (holderCode (t.holder (.lvl k)))) ++ [0xFF, 0xFF, 0xFF, 0xFF]).take 4
        ++ [held] ∧
      ∀ i, held.getLsbD i = true ↔
        ∃ k, cornerNo k = i ∧ t.store.inGroup k = true ∧ t.holder (.lvl k) = some .doorKneel)

/-! Timers of motion, level and modes -/

/-- The settle timer's expiry sets at_rest, drives ON the outputs whose effective setpoint is ON, announces it and offers
one DOOR_PERMIT; a recompute that finds the speed unknown or 5 and more clears it, drives every output OFF and offers one
DOOR_PERMIT (R64, R139, R140). The persistence timer's expiry takes the step in its direction with the valve-run timer from
T_valve (R116); the valve-run timer's sets HOLD and raises LEVEL_TIMEOUT (R118); the kneel timer's raises KNEEL_TIMEOUT and
ends LOWERING in KNEELED and RAISING in NORMAL (R122). Both faults have the source, the channel and the item of R125: the
corner, the valve state that ran, its height and setpoint and at_rest; and for KNEEL_TIMEOUT the lowest group corner that has
not arrived, else the lowest, and 21 bytes of the state and each group corner's height, holder and setpoint. That they are
captured before the kneel state changes and before what the expiry causes is taken is the model's choice (Log 28), and the
widths in the item of LEVEL_TIMEOUT its packing (Log 14). With the timer stopped nothing is done (the model's, Log 4). -/
def Obligations.MotionTimersExpire : Prop :=
  ∀ s : State,
    (s.mru.settle ≠ none → s.mru.atRest = false →
      ∃ u, exec .settleTimerExpiry s = .next (complete u) ∧ u.mru = { s.mru with atRest := true, settle := none } ∧
        (∀ n, u.dsv.outputs.get n = s.dsv.releaseOn.get n) ∧ u.inFlight = s.inFlight ++ [.atRest true] ∧
        u.mpi = offerPorts s.store (.doorPermit true u.dsv.outputs s.dsv.unsecured s.dsv.kneel) s.mpi) ∧
    (s.mru.settle = none → exec .settleTimerExpiry s = .next (complete s)) ∧
    (∀ m : Mru, m.atRest = true → (mruFormed m).speedKnown = false ∨ 5 ≤ (mruFormed m).v →
      let f := formSpeed m s
      let t := mruRecompute m s
      t.mru.atRest = false ∧ t.dsv = { f.dsv with atRest := false, outputs := .of fun _ => false } ∧
        t.mpi = offerPorts f.store (.doorPermit false (.of fun _ => false) f.dsv.unsecured f.dsv.kneel) f.mpi) ∧
    (∀ k d ms, (s.lku.corners.get k).persist = some (d, ms) →
      exec (.persistenceTimerExpiry k) s =
        .next (complete { s with lku := { s.lku with corners := s.lku.corners.set k { s.lku.corners.get k with
          valve := if d = .low then .fill else .exhaust
          valveRun := some s.store.tValve
          persist := none } } })) ∧
    (∀ k, (s.lku.corners.get k).persist = none → exec (.persistenceTimerExpiry k) s = .next (complete s)) ∧
    (∀ k, (s.lku.corners.get k).valveRun ≠ none →
      let c := s.lku.corners.get k
      exec (.valveRunTimerExpiry k) s = .next (complete (detect .levelTimeout .lku (some (.lvl k))
        ([byte (cornerNo k), byte c.valve.code] ++ heightWord c.height ++ setpointWord c.effective ++
          [flag s.lku.atRest])
        { s with lku := { s.lku with corners := s.lku.corners.set k { c with
          valve := .hold
          valveRun := none
          persist := none } } }))) ∧
    (s.lku.kneelTimer ≠ none → s.lku.kneel = .lowering ∨ s.lku.kneel = .raising →
      let near (target : Int) (c : CornerState) : Prop := ∃ h, c.height = some h ∧ |h - target| ≤ s.store.db
      let arrives (k : Corner) : Prop := let c := s.lku.corners.get k
        if s.lku.kneel = .lowering then c.holder = some .doorKneel ∧ near s.store.kneelHeight c
        else ∃ target, c.effective = .num target ∧ near target c
      let group := s.store.groupList
      let item := ([byte s.lku.kneel.code] ++ (group.flatMap fun k =>
        let c := s.lku.corners.get k
        heightWord c.height ++ [byte (holderCode c.holder)] ++ setpointWord c.effective) ++ List.replicate 21 0).take 21
      ∃ affected : Option Channel,
        (∀ k, k ∈ group → ¬ arrives k → (∀ j ∈ group, cornerNo j < cornerNo k → arrives j) → affected = some (.lvl k)) ∧
        ((∀ k ∈ group, arrives k) → affected = group.head?.map Channel.lvl) ∧
        let raised := detect .kneelTimeout .lku affected item s
        let kneel := if s.lku.kneel = .lowering then KneelState.kneeled else .normal
        exec .kneelTimerExpiry s = .next (complete { raised with
          lku := { s.lku with kneel := kneel, kneelTimer := none }
          inFlight := raised.inFlight ++ [.kneel kneel] })) ∧
    (∀ k, (s.lku.corners.get k).valveRun ≠ none →
      ∃ u, exec (.valveRunTimerExpiry k) s = .next (complete u) ∧
        u.lku = { s.lku with corners := s.lku.corners.set k { s.lku.corners.get k with
          valve := .hold
          valveRun := none
          persist := none } } ∧
        (s.mode ≠ .powerup → u.fu.has .levelTimeout = true)) ∧
    (∀ k, (s.lku.corners.get k).valveRun = none → exec (.valveRunTimerExpiry k) s = .next (complete s)) ∧
    (s.lku.kneelTimer ≠ none → s.lku.kneel = .lowering ∨ s.lku.kneel = .raising →
      ∃ u, exec .kneelTimerExpiry s = .next (complete u) ∧
        u.lku = { s.lku with
          kneel := if s.lku.kneel = .lowering then .kneeled else .normal
          kneelTimer := none } ∧
        (s.mode ≠ .powerup → u.fu.has .kneelTimeout = true)) ∧
    (s.lku.kneelTimer = none → exec .kneelTimerExpiry s = .next (complete s))

/-- A pairing window that runs out closes and raises nothing (R175); a ready mark that runs out is cleared and
ENTER_RUN_LAPSED names its lane (R182); neither touches anything else. That an expiry of a closed window and a lapse of a
clear mark do nothing is the model's (Log 4). -/
def Obligations.WindowsAndMarksRunOut : Prop :=
  ∀ s : State,
    exec (.pairingWindowExpiry .standby) s = .next { s with mc := { s.mc with standbyWin := none } } ∧
    exec (.pairingWindowExpiry .warmReset) s = .next { s with mc := { s.mc with resetWin := none } } ∧
    (∀ x, s.mc.ready.get x ≠ none →
      exec (.readyMarkLapse x) s =
        .next { s with
          mc := { s.mc with ready := s.mc.ready.set x none }
          mpi := offerPorts s.store (.enterRunLapsed x) s.mpi }) ∧
    (∀ x, s.mc.ready.get x = none → exec (.readyMarkLapse x) s = .next s)

/-! The computing laws -/

/-- The vehicle speed from the valid samples, with its announcement (R62), and the articulation rate and history at a joint
sample (R67). At the end of a brake SET transaction the sample is stored with its round (R60); a recompute discards the
samples whose age exceeds 2 and counts those of nodes that are not LOST (R61), raises SPEED_UNKNOWN when the last valid one
is gone (R63), and judges at_rest and the settle timer by the table of R64. A joint sample is announced as the angle with the
rate and its validity, each time, and as the angle's magnitude when that changed (R69). That SPEED_UNKNOWN is taken before
at_rest is cleared is the model's choice (Log 28), the bytes of its log item are the model's packing (Log 14), and an empty
slot's value there is free (Log 7). The order of the two announcements of a joint sample is the model's (Log 1), and so is that
all this holds of a SET in flight at the entry to STANDBY (Log 29). -/
def Obligations.SpeedAndRateFormed : Prop :=
  (∀ m : Mru,
    let n := mruFormed m
    (validSpeeds m = [] → n.v = m.v ∧ n.speedKnown = false) ∧
    (∀ x, validSpeeds m = [x] → n.v = x ∧ n.speedKnown = true) ∧
    (∀ x y, validSpeeds m = [x, y] → n.v = max x y ∧ n.speedKnown = true) ∧
    (∀ x y z, validSpeeds m = [x, y, z] →
      (∃ lo hi, [x, y, z].Perm [lo, n.v, hi] ∧ lo ≤ n.v ∧ n.v ≤ hi) ∧ n.speedKnown = true) ∧
    (validSpeeds m).length ≤ 3 ∧
    (n.v = m.v → n.speedKnown = m.speedKnown → speedEvents m = []) ∧
    (¬ (n.v = m.v ∧ n.speedKnown = m.speedKnown) → speedEvents m = [.speed n.v n.speedKnown])) ∧
  (∀ (st : Store) (th : Int) (m : Mru), 0 < st.histDepth →
    let n := mruSampled st th m
    n.theta = clamp (-600) 600 th ∧
    (∀ oldest later, m.history = oldest :: later → m.history.length = st.histDepth →
      n.rateValid = true ∧ n.rate = clamp (-2000) 2000 ((n.theta - oldest) * 10) ∧
      n.history = later ++ [n.theta]) ∧
    (m.history.length < st.histDepth →
      n.rateValid = false ∧ n.rate = m.rate ∧ n.history = m.history ++ [n.theta])) ∧
  (∀ (th : Int) (s : State),
    let n := mruSampled s.store th s.mru
    jointSample th s = announce
      (.theta n.theta n.rate n.rateValid true :: if |n.theta| = |s.mru.theta| then [] else [.artic |n.theta|])
      { s with mru := n }) ∧
  (∀ (x : Axle) (round : Nat) (s : State),
    (∀ v, brakeEnd x round (some v) s =
      mruRecompute { s.mru with latest := round, slots := s.mru.slots.set x (some ⟨v, round⟩) } s) ∧
    brakeEnd x round none s = mruRecompute { s.mru with latest := round } s ∧
    ∀ st, mruNode x st s = mruRecompute { s.mru with nodeState := s.mru.nodeState.set x st } s) ∧
  (∀ (m : Mru) (x : Axle),
    (m.slots.get x = none → (mruFormed m).slots.get x = none) ∧
    ∀ sample : Sample, m.slots.get x = some sample → sample.round < 65536 →
      let age := ((m.latest : Int) - sample.round) % 65536
      (2 < age → (mruFormed m).slots.get x = none) ∧ (age ≤ 2 → (mruFormed m).slots.get x = some sample)) ∧
  (∀ m : Mru, validSpeeds m = [Axle.a, .b, .c].filterMap fun x =>
    if m.nodeState.get x = .lost then none else ((mruFormed m).slots.get x).map Sample.speed) ∧
  (∀ (m : Mru) (s : State),
    let n := mruFormed m
    let u := announce (speedEvents m) { s with mru := n }
    let t := mruRecompute m s
    let slow := n.speedKnown = true ∧ n.v < 5
    let slot (x : Axle) (d : List Byte) : Prop := match m.slots.get x with
      | some y => d = wordInt y.speed ++ [byte (min 254 ((m.latest + 65536 - y.round) % 65536))]
      | none => ∃ free : List Byte, free.length = 2 ∧ d = free ++ [0xFF]
    (m.speedKnown = true → n.speedKnown = false → ∃ a b c, slot .a a ∧ slot .b b ∧ slot .c c ∧
      formSpeed m s = detect .speedUnknown .mru none (a ++ b ++ c ++
        [byte m.nodeState.a.code, byte m.nodeState.b.code, byte m.nodeState.c.code])
        { u with freeCount := s.freeCount + 1 }) ∧
    (m.speedKnown = false ∨ n.speedKnown = true → formSpeed m s = u) ∧
    (slow → m.atRest = false →
      t = { formSpeed m s with mru := { n with settle := some (m.settle.getD s.store.tRest) } }) ∧
    (slow → m.atRest = true → t = { formSpeed m s with mru := { n with settle := none } }) ∧
    (¬ slow → m.atRest = false → t = { formSpeed m s with mru := { n with settle := none } }) ∧
    (¬ slow → m.atRest = true → t.mru = { n with settle := none, atRest := false } ∧ t.dsv.atRest = false ∧
      (∀ d, t.dsv.outputs.get d = false) ∧ t.inFlight = (formSpeed m s).inFlight ++ [.atRest false]))

/-- The steer target before the fade (R97) and the fade factor (R98); then the faded target and the limiter's next value,
which moves from a last sent value within the limit by at most R (R99, R100). A run of the law hands CAU the faded target
for S_LANE and 0 for S_SAFE and S_CENTRE, no other source is rewritten, and a placement takes the target as SJU holds it
(R99). The formation of a STR_C SET command takes the limiter's next value, which becomes the last sent value; an ECHO and
a SHUTDOWN do not step it (R100). The law runs at every announcement of the voted angle, of steer_mode_v, of v with
speed_known and of θ, on the copies as they stand after it (R96), and an announcement of STR_C sets the effective setpoint
that the limiter holds (R20, R100). R100's law on the effective setpoints is stated with the last sent value
(StepKeepsSteerSent). That ICT takes the speed before SJU and LKU (Log 1), and that the steer law runs before the joint law at
an announcement of θ (Log 20), is the model's choice. -/
def Obligations.SteerLawFormed : Prop :=
  (∀ (st : Store) (j : Sju),
    (j.steer = .centre → steerRaw st j = 0) ∧
    (j.steer = .active → steerRaw st j = -((st.gTheta * j.theta + st.gF * j.angle).tdiv 1024)) ∧
    (|j.theta| ≤ 600 → |j.angle| ≤ 500 → |st.gTheta| ≤ 2048 → |st.gF| ≤ 2048 →
      |st.gTheta * j.theta + st.gF * j.angle| ≤ 2252800 ∧ |steerRaw st j| ≤ 2200)) ∧
  (∀ (st : Store) (j : Sju), st.v1 < st.v2 →
    let f := fadeFactor st j
    (j.speedKnown = false → f = 0) ∧
    (j.speedKnown = true → j.v ≤ st.v1 → f = 1024) ∧
    (j.speedKnown = true → st.v2 ≤ j.v → f = 0) ∧
    (j.speedKnown = true → st.v1 < j.v → j.v ≤ st.v2 - 1 →
      f = 1024 * (st.v2 - j.v) / (st.v2 - st.v1) ∧ 0 ≤ f ∧ f ≤ 1023 ∧ (f = 0 → 1024 < st.v2 - st.v1) ∧
      ∀ v', j.v ≤ v' → v' ≤ st.v2 - 1 → fadeFactor st { j with v := v' } ≤ f)) ∧
  (∀ (st : Store) (j : Sju),
    steerTarget st j = clamp (-st.deltaMax) st.deltaMax ((steerRaw st j * fadeFactor st j).tdiv 1024)) ∧
  (∀ (st : Store) (j : Sju), 0 ≤ st.rLim → |j.lastSent| ≤ st.deltaMax →
    let next := limitStep st j
    |next| ≤ st.deltaMax ∧ |next - j.lastSent| ≤ st.rLim ∧
    (|j.effective - j.lastSent| ≤ st.rLim → next = clamp (-st.deltaMax) st.deltaMax j.effective) ∧
    (st.rLim < j.effective - j.lastSent → next = min st.deltaMax (j.lastSent + st.rLim)) ∧
    (st.rLim < j.lastSent - j.effective → next = max (-st.deltaMax) (j.lastSent - st.rLim))) ∧
  (∀ (j : Sju) (s : State),
    let n := { j with
      target := steerTarget s.store j
      rawTarget := steerRaw s.store j
      fade := fadeFactor s.store j }
    runSteer j s = rewriteChannel .str (steerSetpoint n) { s with sju := n } ∧
    steerSetpoint n .lane = some (.num n.target) ∧ steerSetpoint n .safe = some (.num 0) ∧
    steerSetpoint n .centre = some (.num 0) ∧
    (∀ src, src ≠ .lane → src ≠ .safe → src ≠ .centre → steerSetpoint n src = none) ∧
    placementSetpoint s .lane .str = .num s.sju.target ∧ placementSetpoint s .safe .str = .num 0 ∧
    placementSetpoint s .centre .str = .num 0) ∧
  (∀ s : State,
    (∀ a, handle (.angle a) s = runSteer { s.sju with angle := a } s) ∧
    (∀ m, handle (.steerMode m) s = runSteer { s.sju with steer := m } s) ∧
    (∀ v known, handle (.speed v known) s = lkuSpeed v known (sjuSpeed v known (ictSpeed v known s)) ∧
      sjuSpeed v known s = runSteer { s.sju with v := v, speedKnown := known } s) ∧
    (∀ th rate valid, handle (.theta th rate valid false) s =
      runJoint (runSteer { s.sju with theta := th, rate := rate, rateValid := valid } s)) ∧
    ∀ holder v changed,
      handle (.channel .str holder (.num v) changed) s = { s with sju := { s.sju with effective := v } }) ∧
  (∀ (s : State) (rest : List Node), s.flc.left = .str :: rest →
    let echo := s.flc.testLive = true ∧ s.flc.test.result = .running ∧ s.flc.test.node = .str
    let next := limitStep s.store s.sju
    (¬ echo → (pollNext s).sju = { s.sju with lastSent := next } ∧
      (pollNext s).flc.txn = some ⟨.str, s.store.nodeAddr .str, .set, next, s.store.window, none⟩) ∧
    (echo → (pollNext s).sju = s.sju)) ∧
  (∀ (s : State) (rest : List Node) (start : Bool), s.flc.txn = none → s.flc.phase = .shutdown (.str :: rest) start →
    (advance s).flc.txn = some ⟨.str, s.store.nodeAddr .str, .shutdown, 0, s.store.tAck, none⟩ ∧
      (advance s).sju = s.sju)

/-- The joint law at each announcement of the angle and of at_rest: the copies take the announced values, and the first
matching row gives the current (R105); S_JOINT is placed again with it where an ENTER_RUN has been taken since the lists
were last cleared (R106). A change of the standing conditions places S_CENTRE with 0 or withdraws it (R102, R103), and a
joint sample begins, goes on with or ends an excursion, with ARTIC_LIMIT and the item of R108 at its beginning (R104). That the
recipients of at_rest take it in this order is the model's (Log 1), and that the two laws run
before the excursion is judged, and the fault is raised before the condition stands, is the model's choice (Log 20). -/
def Obligations.JointLawRuns : Prop :=
  (∀ s : State,
    let law (atRest valid : Bool) (th rate : Int) : Int :=
      if atRest = true then s.store.iBase
      else if valid = false then s.store.iBase
      else if s.store.thetaWarn ≤ |th| ∧ (0 < th ∧ 0 < rate ∨ th < 0 ∧ rate < 0) then s.store.iMax
      else clamp s.store.iBase s.store.iMax (s.store.iBase + s.store.gD * |rate| / 64)
    (∀ (th rate : Int) (valid sample : Bool),
      let t := handle (.theta th rate valid sample) s
      t.sju.theta = th ∧ t.sju.rate = rate ∧ t.sju.rateValid = valid ∧
      t.sju.current = law s.sju.atRest valid th rate) ∧
    (∀ b : Bool,
      let t := handle (.atRest b) s
      t.sju.atRest = b ∧ t.sju.current = law b s.sju.rateValid s.sju.theta s.sju.rate)) ∧
  (∀ s : State,
    let j := sjuDamped s.store s.sju
    (s.sju.entered = true → runJoint s = placeClaim .joint .jnt { s with sju := j }) ∧
    (s.sju.entered = false → runJoint s = { s with sju := j }) ∧
    placementSetpoint s .joint .jnt = .num s.sju.current ∧
    (∀ b, sjuAtRest b s = runJoint { s with sju := { s.sju with atRest := b } }) ∧
    (clearLists s).sju = { s.sju with entered := false }) ∧
  (∀ (th rate : Int) (valid : Bool) (s : State),
    handle (.theta th rate valid false) s =
      runJoint (runSteer { s.sju with theta := th, rate := rate, rateValid := valid } s) ∧
    handle (.theta th rate valid true) s = judgeExcursion (handle (.theta th rate valid false) s)) ∧
  (∀ s : State,
    let c := s.sju.centring
    let stands (c : Centring) := c.mode = true ∨ c.angle = true ∨ c.node = true ∨ c.follow = true
    (stands c → centre s = placeClaim .centre .str s) ∧ (¬ stands c → centre s = withdrawClaim .centre .str s) ∧
    setCentring c s = s ∧
    (∀ c', c' ≠ c → setCentring c' s = centre { s with sju := { s.sju with centring := c' } }) ∧
    placementSetpoint s .centre .str = .num 0 ∧
    (∀ st, handle (.node .str st) s = setCentring { c with node := decide (st = .lost) } s) ∧
    (∀ b, handle (.followMark b) s = setCentring { c with follow := b } s) ∧
    (s.store.thetaMax < |s.sju.theta| → c.angle = false → judgeExcursion s =
      setCentring { c with angle := true } (detect .articLimit .sju (some .str)
        (wordInt s.sju.theta ++ wordInt s.sju.rate ++ [flag s.sju.rateValid] ++ wordInt s.store.thetaMax ++
          wordInt s.sju.v ++ [flag s.sju.speedKnown] ++ wordInt s.sju.lastSent) s)) ∧
    (s.store.thetaMax < |s.sju.theta| → c.angle = true → judgeExcursion s = s) ∧
    (|s.sju.theta| ≤ s.store.thetaMax → judgeExcursion s = setCentring { c with angle := false } s))

/-- The apportionment loads (R79) and the pressure of a demand (R80); then the setpoint that BAU gives each source from
its inputs, the halt floor acting on BRK_B and BRK_C alone (R83). Then what forms those inputs and follows their change: the
gate of an axle (R74) and the load estimate at a pressure (R76); the lost-axle set (R78); the saturation flags, with
BRAKE_SATURATED for a flag that sets, with the item of R91 (R81); the record of the given values (R85); the floor flag (R86); and the recompute,
which hands CAU every source's setpoint, one event for each brake channel (R88, R89). BAU stores its copy of each announced
input, D_v, EMERG_v, at_rest, the door security, the kneel state, a brake node's state and the mode, and recomputes exactly
when the copy, the floor flag, the lost-axle set or a load changes, and at each mode change (R88). That the recipients of one
announcement take it in this order is the model's (Log 1), and so are the order of the three channels' events (Log 35) and that
a pressure of a SET in flight at the entry to STANDBY is stored (Log 29). -/
def Obligations.BrakePressureFormed : Prop :=
  (∀ b : Bau, (∀ x, 0 < b.load.get x) →
    let mAll := b.load.a + b.load.b + b.load.c
    let live (x : Axle) : Int := if b.lost.get x = true then 0 else b.load.get x
    let mLive := live .a + live .b + live .c
    ((∀ x, b.lost.get x = false) → ∀ x, b.apportioned x = b.load.get x) ∧
    ((∃ x, b.lost.get x = true) → (∃ x, b.lost.get x = false) →
      ∀ x, b.apportioned x = (if b.lost.get x = true then b.load.get x else b.load.get x * mAll / mLive) ∧
        b.apportioned x ≤ mAll) ∧
    (∀ x, b.lost.get x = false → (∀ y, y ≠ x → b.lost.get y = true) → b.apportioned x = mAll)) ∧
  (∀ (st : Store) (b : Bau) (x : Axle) (d : Int),
    (d = 0 ∨ (∀ y, b.lost.get y = true) → pressure st b x d = 0) ∧
    (d ≠ 0 → (∃ y, b.lost.get y = false) →
      pressure st b x d = min 850 (d * b.apportioned x * st.kA x / 1048576 + st.tA x))) ∧
  (∀ (st : Store) (b : Bau) (x : Axle),
    let floor (v : Int) : Int := if b.floor = true ∧ x ≠ .a then max v st.haltP else v
    let halt := max (pressure st b x b.demand) st.haltP
    brakeSetpoint st b x .lane = some (floor (pressure st b x b.demand)) ∧
    brakeSetpoint st b x .emerg = some (floor (pressure st b x (max b.demand st.dEmerg))) ∧
    (b.atRest = false → brakeSetpoint st b x .safe = some (floor (pressure st b x st.dSafe))) ∧
    (b.atRest = true → brakeSetpoint st b x .safe = some st.haltP) ∧
    (x ≠ .a → brakeSetpoint st b x .doorHalt = some halt ∧
      brakeSetpoint st b x (.entry (.fixed .f0)) = some halt ∧
      brakeSetpoint st b x (.entry (.fixed .f2)) = some halt) ∧
    (∀ k, st.entryKind k = .halt → brakeSetpoint st b x (.entry (.prog k)) = some halt) ∧
    (∀ k, st.entryKind k ≠ .halt → x ≠ .a →
      brakeSetpoint st b x (.entry (.prog k)) = (givenValue b x k).map floor) ∧
    (∀ k, st.entryKind k ≠ .halt → brakeSetpoint st b .a (.entry (.prog k)) = none)) ∧
  (∀ (st : Store) (l : Lku) (x : Axle), gateOpen st l x = true ↔
    (l.corners.get (axleLeft x)).valve = .hold ∧ (l.corners.get (axleRight x)).valve = .hold ∧
      (l.kneel = .normal ∨ (st.inGroup (axleLeft x) = false ∧ st.inGroup (axleRight x) = false))) ∧
  (∀ (k : Corner) (p : Int) (gate : Bool) (s : State),
    let x := cornerAxle k
    let b := { s.bau with samples := s.bau.samples.set k (some p), gates := s.bau.gates.set x (some gate) }
    let left := b.samples.get (axleLeft x)
    let right := b.samples.get (axleRight x)
    (gate = false ∨ left = none ∨ right = none → bauPressure k p gate s = { s with bau := b }) ∧
    (∀ l r, gate = true → left = some l → right = some r →
      let e := clamp (s.store.lMin x) (s.store.lMax x) (s.store.uA x + (l + r) * s.store.gA x / 256)
      (e = s.bau.load.get x → bauPressure k p gate s = { s with bau := b }) ∧
      (e ≠ s.bau.load.get x → bauPressure k p gate s =
        bauRecompute { s with bau := { b with load := s.bau.load.set x e } }))) ∧
  (∀ (x : Axle) (st : NodeState) (s : State),
    (s.bau.lost.get x = decide (st = .lost) → bauNode x st s = s) ∧
    (s.bau.lost.get x ≠ decide (st = .lost) →
      bauNode x st s = bauRecompute { s with bau := { s.bau with lost := s.bau.lost.set x (decide (st = .lost)) } })) ∧
  (∀ (doors : PerDoor Bool) (kneel : KneelState) (s : State),
    let stands := floorStands s.store doors kneel
    let u := { s with bau := { s.bau with doors := doors, kneel := kneel, floor := stands } }
    (stands = true ↔ (∃ n, s.store.doorFitted n = true ∧ doors.get n = true) ∨ kneel ≠ .normal) ∧
    (s.bau.floor = stands → bauFloor doors kneel s = u) ∧
    (s.bau.floor ≠ stands → bauFloor doors kneel s = bauRecompute u)) ∧
  (∀ s : State,
    (∀ d,
      handle (.demand d) s = ictDemand d (bauDemand d s) ∧ (s.bau.demand = d → bauDemand d s = s) ∧
      (s.bau.demand ≠ d → bauDemand d s = bauRecompute { s with bau := { s.bau with demand := d } })) ∧
    (∀ b,
      handle (.emerg b) s = ictEmerg b (bauEmerg b s) ∧ (s.bau.emerg = b → bauEmerg b s = s) ∧
      (s.bau.emerg ≠ b → bauEmerg b s = bauRecompute { s with bau := { s.bau with emerg := b } })) ∧
    (∀ b,
      handle (.atRest b) s = mcAtRest b (lkuAtRest b (sjuAtRest b (ictAtRest b (bauAtRest b s)))) ∧
      (s.bau.atRest = b → bauAtRest b s = s) ∧
      (s.bau.atRest ≠ b → bauAtRest b s = bauRecompute { s with bau := { s.bau with atRest := b } })) ∧
    (∀ x st, handle (.node (.brk x) st) s = mruNode x st (bauNode x st s)) ∧
    (∀ d,
      let u := ictDoors d (bauFloor d s.bau.kneel s)
      handle (.doors d) s = { u with mc := { u.mc with doors := d } }) ∧
    (∀ k,
      let u := dsvKneel k (ictKneel k (bauFloor s.bau.doors k s))
      handle (.kneel k) s = { u with mc := { u.mc with kneel := k } }) ∧
    (∀ prev new, bauMode prev new s = bauRecompute { s with bau := { s.bau with
      mode := new
      load := if new = .run ∧ (prev = .config ∨ prev = .standby)
        then .of fun x => clamp (s.store.lMin x) (s.store.lMax x) (s.store.nA x) else s.bau.load
      samples := if new = .standby then .of fun _ => none else s.bau.samples } }) ∧
    ∀ x,
      let l := clamp (s.store.lMin x) (s.store.lMax x) (s.store.nA x)
      (s.bau.load.get x = l → axleWritten x s = s) ∧
      (s.bau.load.get x ≠ l → axleWritten x s =
        bauRecompute { s with bau := { s.bau with load := s.bau.load.set x l } })) ∧
  (∀ s : State,
    let b := s.bau
    let used (d : Int) := (d = b.demand ∧ b.mode.operating = true) ∨
      (d = max b.demand s.store.dEmerg ∧ b.mode.operating = true ∧ b.emerg = true) ∨
      (d = s.store.dSafe ∧ b.mode = .safeStop ∧ b.atRest = false)
    let exceeds (x : Axle) := ∃ d, used d ∧ d ≠ 0 ∧ (∃ y, b.lost.get y = false) ∧
      850 < d * b.apportioned x * s.store.kA x / 1048576 + s.store.tA x
    let t := bauRecompute s
    (∀ x, t.bau.saturated.get x = true ↔ exceeds x) ∧ t.bau = { b with saturated := t.bau.saturated } ∧
    (∀ x, b.saturated.get x = false → exceeds x → s.mode ≠ .powerup → t.fu.has .brakeSaturated = true) ∧
    ((∀ x, exceeds x → b.saturated.get x = true) → t.fu = s.fu ∧ t.mc = s.mc) ∧
    t = brakeRewrite (brakeRewrite (brakeRewrite (judgeSaturation s) .a) .b) .c ∧
    ∀ x, brakeRewrite s x = rewriteChannel (.brk x) (fun src => (brakeSetpoint s.store b x src).map Setpoint.num) s) ∧
  (∀ (was : PerAxle Bool) (s : State),
    let raised (x : Axle) (u : State) := raiseSaturated was x u
    let u := { s with bau := { s.bau with saturated := saturationNow s.store s.bau } }
    (s.bau.saturated = was → judgeSaturation s = raised .c (raised .b (raised .a u))) ∧
    (∀ x, was.get x = false → s.bau.saturated.get x = true →
      raised x s = detect .brakeSaturated .bau (some (.brk x))
        (saturatedItem s.store s.bau x (largest (saturating s.store s.bau x))) s) ∧
    (∀ x d, was.get x = false → s.bau.saturated.get x = true → 0 ≤ d → d ∈ saturating s.store s.bau x →
      (∀ d' ∈ saturating s.store s.bau x, d' ≤ d) →
      raised x s = detect .brakeSaturated .bau (some (.brk x))
        ([byte (axleNo x)] ++ wordInt (s.bau.load.get x) ++ wordInt (s.bau.apportioned x) ++ [axleSet s.bau.lost] ++
          wordInt d ++
          word (min 65535 (d * s.bau.apportioned x * s.store.kA x / 1048576 + s.store.tA x)).toNat) s) ∧
    (∀ x d, d ∈ saturating s.store s.bau x ↔
      (d = s.bau.demand ∧ s.bau.mode.operating = true ∨
        d = max s.bau.demand s.store.dEmerg ∧ s.bau.mode.operating = true ∧ s.bau.emerg = true ∨
        d = s.store.dSafe ∧ s.bau.mode = .safeStop ∧ s.bau.atRest = false) ∧
      d ≠ 0 ∧ (∃ y, s.bau.lost.get y = false) ∧
      850 < d * s.bau.apportioned x * s.store.kA x / 1048576 + s.store.tA x) ∧
    (∀ x, was.get x = true ∨ s.bau.saturated.get x = false → raised x s = s)) ∧
  (∀ (s : State) (x : Axle) (k : Fin 12), accepts s (.entry (.prog k)) (.brk x) = true →
    let t := placeClaim (.entry (.prog k)) (.brk x) s
    (x = .a → t.bau = s.bau) ∧
    (x ≠ .a → (∀ n, s.store.entryKind k = .value n → givenValue t.bau x k = some (clamp 0 850 n)) ∧
      (∀ n, s.store.entryKind k = .holdPresent → s.effective (.brk x) = .num n → givenValue t.bau x k = some n) ∧
      ∀ y j, y ≠ x ∨ j ≠ k → givenValue t.bau y j = givenValue s.bau y j))

/-- The ride-height target (R112); a level response judged at its corner (R115, R117, R119); the kneel state's
transitions, each with its timer (R120, R121). A change of the target is handed to CAU for S_LANE, F3 and the FOLLOW_BASE
entries, the channels in ascending order by the model's choice (R113; Log 35); an announcement of HOLD_PRESENT or of a LOST node forces its corner to HOLD (R119); and a response passes its
pressure with the gate of its arrival to BAU, then stores the height and acts on the valve, then judges the kneel state
(R115). An announcement of at_rest sets LKU's copy; its setting discards every running persistence timer, and running valves
run on at either (R116). Where a RAISING group is returned while S_DOOR_KNEEL holds a corner the
model takes the row that stands first (Log 22). That the recipients of at_rest take it in this order is
its choice too (Log 1), and so is that a response of a SET in flight at the entry to STANDBY is taken (Log 29). -/
def Obligations.LevelLawsRun : Prop :=
  (∀ (st : Store) (l : Lku),
    (l.level = .normal → hLaneOf st l = 0) ∧
    (l.level = .low → hLaneOf st l = -st.hLow) ∧
    (l.level = .high → l.speedKnown = true → l.v ≤ st.vHighMax → l.mode ≠ .degraded → hLaneOf st l = st.hHigh) ∧
    (l.level = .high → l.speedKnown = false ∨ st.vHighMax < l.v ∨ l.mode = .degraded → hLaneOf st l = 0)) ∧
  (∀ (st : Store) (atRest : Bool) (h : Int) (c : CornerState),
    let c' := cornerResponse st atRest h c
    let low := some (Dir.low, match c.persist with
      | some (.low, ms) => ms
      | _ => st.tMove)
    let high := some (Dir.high, match c.persist with
      | some (.high, ms) => ms
      | _ => st.tMove)
    (c.nodeLost = true ∨ (∀ t, c.effective ≠ .num t) → c' = { c with height := some h }) ∧
    (∀ t, c.effective = .num t → c.nodeLost = false →
      (c.valve = .hold →
        (t - st.db ≤ h → h ≤ t + st.db → c' = { c with height := some h, persist := none }) ∧
        (h < t - st.db → c' = if atRest = true
          then { c with height := some h, valve := .fill, valveRun := some st.tValve, persist := none }
          else { c with height := some h, persist := low }) ∧
        (¬ h < t - st.db → t + st.db < h → c' = if atRest = true
          then { c with height := some h, valve := .exhaust, valveRun := some st.tValve, persist := none }
          else { c with height := some h, persist := high })) ∧
      (c.valve = .fill → c' = if t ≤ h then { c with height := some h, valve := .hold, valveRun := none }
        else { c with height := some h }) ∧
      (c.valve = .exhaust → c' = if h ≤ t then { c with height := some h, valve := .hold, valveRun := none }
        else { c with height := some h }))) ∧
  (∀ (s : State) (k : Corner),
    let t := judgeKneel k s
    let near (target : Int) (c : CornerState) : Prop := ∃ h, c.height = some h ∧ |h - target| ≤ s.store.db
    let holds := ∃ j, s.store.inGroup j = true ∧ (s.lku.corners.get j).holder = some .doorKneel
    let allDown := ∀ j, s.store.inGroup j = true → (s.lku.corners.get j).holder = some .doorKneel ∧
      near s.store.kneelHeight (s.lku.corners.get j)
    let allBack := ∀ j, s.store.inGroup j = true → ∃ target, (s.lku.corners.get j).effective = .num target ∧
      near target (s.lku.corners.get j)
    let goes (st : KneelState) (timer : Option Nat) : Prop :=
      t = { s with lku := { s.lku with kneel := st, kneelTimer := timer }, inFlight := s.inFlight ++ [.kneel st] }
    (s.store.inGroup k = false → t = s) ∧
    (s.store.inGroup k = true →
      (s.lku.kneel = .normal → holds → goes .lowering (some s.store.tKneel)) ∧
      (s.lku.kneel = .normal → ¬ holds → t = s) ∧
      (s.lku.kneel = .lowering → allDown → goes .kneeled none) ∧
      (s.lku.kneel = .lowering → ¬ allDown → holds → t = s) ∧
      (s.lku.kneel = .lowering → ¬ holds → ¬ allDown → goes .raising (some s.store.tKneel)) ∧
      (s.lku.kneel = .kneeled → holds → t = s) ∧
      (s.lku.kneel = .kneeled → ¬ holds → goes .raising (some s.store.tKneel)) ∧
      (s.lku.kneel = .raising → holds → goes .lowering (some s.store.tKneel)) ∧
      (s.lku.kneel = .raising → ¬ holds → allBack → goes .normal none) ∧
      (s.lku.kneel = .raising → ¬ holds → ¬ allBack → t = s))) ∧
  (∀ (l : Lku) (s : State),
    let h := hLaneOf s.store l
    (h = l.hLane → formHLane l s = { s with lku := l }) ∧
    (h ≠ l.hLane → formHLane l s =
      rewriteChannels [.lvl .al, .lvl .ar, .lvl .bl, .lvl .br, .lvl .cl, .lvl .cr] (levelRewrite s.store h)
        { s with lku := { l with hLane := h } })) ∧
  (∀ (st : Store) (h : Int) (k : Corner),
    levelRewrite st h (.lvl k) .lane = some (.num h) ∧
    levelRewrite st h (.lvl k) (.entry (.fixed .f3)) = (if st.inGroup k = true then some (.num h) else none) ∧
    (∀ e, levelRewrite st h (.lvl k) (.entry (.prog e)) =
      if st.entryKind e = .followBase ∧ st.entryTargets e (.lvl k) = true then some (.num h) else none) ∧
    ∀ src, src ≠ .lane → src ≠ .entry (.fixed .f3) → (∀ e, src ≠ .entry (.prog e)) →
      levelRewrite st h (.lvl k) src = none) ∧
  (∀ s : State,
    (∀ m, handle (.levelMode m) s = formHLane { s.lku with level := m } s) ∧
    (∀ v known, lkuSpeed v known s = formHLane { s.lku with v := v, speedKnown := known } s) ∧
    ∀ m, m ≠ .standby → lkuMode m s = formHLane { s.lku with mode := m } s) ∧
  (∀ (k : Corner) (holder : Option Source) (sp : Setpoint) (changed : Bool) (s : State),
    let c := { s.lku.corners.get k with holder := holder, effective := sp }
    let u (c' : CornerState) := { s with lku := { s.lku with corners := s.lku.corners.set k c' } }
    (sp = .holdPresent → handle (.channel (.lvl k) holder sp changed) s =
      judgeKneel k (u { c with valve := .hold, valveRun := none, persist := none })) ∧
    (sp ≠ .holdPresent → handle (.channel (.lvl k) holder sp changed) s = judgeKneel k (u c))) ∧
  (∀ (k : Corner) (st : NodeState) (s : State),
    let c := s.lku.corners.get k
    let u (c' : CornerState) := { s with lku := { s.lku with corners := s.lku.corners.set k c' } }
    (st = .lost → handle (.node (.lvl k) st) s =
      u { c with nodeLost := true, valve := .hold, valveRun := none, persist := none }) ∧
    (st ≠ .lost → handle (.node (.lvl k) st) s = u { c with nodeLost := false })) ∧
  (∀ s : State,
    (∀ b, handle (.atRest b) s = mcAtRest b (lkuAtRest b (sjuAtRest b (ictAtRest b (bauAtRest b s))))) ∧
    lkuAtRest false s = { s with lku := { s.lku with atRest := false } } ∧
    lkuAtRest true s = { s with lku := { s.lku with
      atRest := true
      corners := .of fun k => { s.lku.corners.get k with persist := none } } }) ∧
  (∀ (k : Corner) (h p : Int) (s : State),
    let passed := bauPressure k p (gateOpen s.store s.lku (cornerAxle k)) s
    passed.lku = s.lku ∧ levelResponse k h p s =
      judgeKneel k { passed with lku := { s.lku with
        corners := s.lku.corners.set k (cornerResponse s.store s.lku.atRest h (s.lku.corners.get k)) } })

/-- The judgement of an entry: false unarmed or outside its modes (R147), else by its comparison from its present truth
(R148); a rise places its claims, a fall withdraws them, and no other entry's truth moves (R149 to R151). The value judged of
each quantity (R146): an unknown speed counts as 1200, a set by its members. An announcement judges every entry that watches
its quantity against the new copy, a mode change all sixteen, in entry order F0 to F3 and then P0 to P11 (R149). An entry is
armed while its active modes and its targets are not empty and its level is not 0, a programmable one only with the store
locked (R147). The fields of F0 to F3 are those of the table of R145, and those of P0 to P11 the stored items (R144, R180). -/
def Obligations.EntriesJudged : Prop :=
  (∀ (st : Store) (locked : Bool) (i : Ict) (e : Entry),
    let f := entryFields st e
    let q := entryValue i f
    let b := judged st locked i e
    let was := i.isTrue e
    (armed st locked e = false → b = false) ∧
    (modeIn i.mode f.modes = false → b = false) ∧
    (armed st locked e = true → modeIn i.mode f.modes = true →
      (f.comparison = .above →
        (was = false → (b = true ↔ q > f.operand)) ∧ (was = true → (b = false ↔ q ≤ f.operand - f.hysteresis))) ∧
      (f.comparison = .below →
        (was = false → (b = true ↔ q < f.operand)) ∧ (was = true → (b = false ↔ q ≥ f.operand + f.hysteresis))) ∧
      (f.comparison = .any → (b = true ↔ q ≠ 0)) ∧
      (f.comparison = .none → (b = true ↔ q = 0))) ∧
    (f.watched = .doorsUnsecured →
      0 ≤ q ∧ q ≤ 4 ∧ (q ≠ 0 ↔ ∃ n, i.doors.get n = true ∧ f.mask.get n = true))) ∧
  (∀ (i : Ict) (f : EntryFields),
    let q := entryValue i f
    (f.watched = .speed → q = if i.speedKnown = true then i.v else 1200) ∧
    (f.watched = .articAbs → q = i.articAbs) ∧
    (f.watched = .brakeDemand → q = i.demand) ∧
    (f.watched = .atRest → q = if i.atRest = true then 1 else 0) ∧
    (f.watched = .kneelNotNormal → q = if i.kneel = .normal then 0 else 1) ∧
    (f.watched = .emerg → q = if i.emerg = true then 1 else 0) ∧
    (f.watched = .doorsUnsecured →
      q = ([Door.d1, .d2, .d3, .d4].filter fun n => i.doors.get n && f.mask.get n).length)) ∧
  (∀ s : State,
    let order : List Entry := [.fixed .f0, .fixed .f1, .fixed .f2, .fixed .f3, .prog 0, .prog 1, .prog 2, .prog 3, .prog 4,
      .prog 5, .prog 6, .prog 7, .prog 8, .prog 9, .prog 10, .prog 11]
    let judges (q : Watched) (i : Ict) : State :=
      judgeEntries (order.filter fun e => decide ((entryFields s.store e).watched = q)) { s with ict := i }
    judgeEntries [] s = s ∧ (∀ e es, judgeEntries (e :: es) s = judgeEntries es (judgeEntry e s)) ∧
    (∀ v known, ictSpeed v known s = judges .speed { s.ict with v := v, speedKnown := known }) ∧
    (∀ a, ictArtic a s = judges .articAbs { s.ict with articAbs := a }) ∧
    (∀ d, ictDemand d s = judges .brakeDemand { s.ict with demand := d }) ∧
    (∀ b, ictAtRest b s = judges .atRest { s.ict with atRest := b }) ∧
    (∀ k, ictKneel k s = judges .kneelNotNormal { s.ict with kneel := k }) ∧
    (∀ b, ictEmerg b s = judges .emerg { s.ict with emerg := b }) ∧
    (∀ d, ictDoors d s = judges .doorsUnsecured { s.ict with doors := d }) ∧
    (∀ m, m ≠ .standby → ictMode m s = judgeEntries order { s with ict := { s.ict with mode := m } }) ∧
    ictMode .standby s =
      judgeEntries order { s with ict := { s.ict with mode := .standby, demand := 0, emerg := false } }) ∧
  (∀ (e : Entry) (s : State),
    let b := judged s.store s.mc.locked s.ict e
    let turned := { s with ict := { s.ict with truth := setTruth s.ict.truth e b } }
    let targets := (entryFields s.store e).targets
    (b = s.ict.isTrue e → judgeEntry e s = s) ∧
    (b ≠ s.ict.isTrue e → b = true → judgeEntry e s = placeClaims (.entry e) targets turned) ∧
    (b ≠ s.ict.isTrue e → b = false → judgeEntry e s = withdrawClaims (.entry e) targets turned) ∧
    (judgeEntry e s).ict.isTrue e = b ∧
    ∀ e', e' ≠ e → (judgeEntry e s).ict.isTrue e' = s.ict.isTrue e') ∧
  (∀ s : State, ∀ a, handle (.artic a) s = ictArtic a s) ∧
  (∀ (st : Store) (locked : Bool) (e : Entry),
    let f := entryFields st e
    armed st locked e = true ↔ f.modes ≠ 0 ∧ f.targets ≠ [] ∧ f.level ≠ 0 ∧ ((∃ k, e = .prog k) → locked = true)) ∧
  (∀ (m : Mode) (set : BitVec 3), modeIn m set = true ↔
    m = .run ∧ set.getLsbD 0 = true ∨ m = .degraded ∧ set.getLsbD 1 = true ∨ m = .safeStop ∧ set.getLsbD 2 = true) ∧
  (∀ st : Store,
    let row (e : FixedEntry) (w : Watched) (c : Comparison) (targets : List Channel) (level : Nat) (kind : SpKind) : Prop :=
      let f := entryFields st (.fixed e)
      f.watched = w ∧ f.comparison = c ∧ f.modes = 0b111 ∧ f.targets = targets ∧ f.level = level ∧ f.kind = kind
    row .f0 .doorsUnsecured .any [.brk .b, .brk .c] 12 .halt ∧
    row .f1 .atRest .none [.drel .d1, .drel .d2, .drel .d3, .drel .d4] 12 .off ∧
    row .f2 .kneelNotNormal .any [.brk .b, .brk .c] 12 .halt ∧
    row .f3 .atRest .none
      (([.al, .ar, .bl, .br, .cl, .cr] : List Corner).filter st.inGroup |>.map Channel.lvl) 11 .followBase ∧
    ∀ n, (entryFields st (.fixed .f0)).mask.get n = true ↔ doorNo n ≤ (st.get 48).toNat) ∧
  ∀ (st : Store) (k : Fin 12),
    let f := entryFields st (.prog k)
    let item (n : Nat) : Int := st.get (80 + 9 * k.val + n)
    (∀ (i : Nat) (w : Watched), item 0 = i → [Watched.speed, .atRest, .articAbs, .doorsUnsecured, .kneelNotNormal,
      .brakeDemand, .emerg][i]? = some w → f.watched = w) ∧
    (∀ (i : Nat) (c : Comparison), item 1 = i → [Comparison.above, .below, .any, .none][i]? = some c →
      f.comparison = c) ∧
    f.operand = item 2 ∧ f.hysteresis = item 3 ∧ (∀ n, f.mask.get n = (item 4).toNat.testBit (doorNo n - 1)) ∧
    f.modes = BitVec.ofInt 3 (item 5) ∧ (∀ c, c ∈ f.targets ↔ (item 6).toNat.testBit (chanNo c) = true) ∧
    f.level = (item 7).toNat ∧
    (∀ (i : Nat) (kind : SpKind), item 8 = 65536 * i →
      [SpKind.halt, .off, .centre, .followBase, .holdPresent][i]? = some kind → f.kind = kind) ∧
    ∀ n : Word, item 8 = 65536 * 5 + (n.toNat : Int) → f.kind = .value n.toInt

/-! Laws that every step keeps -/

/-- Each port's notice queue holds at most 8 notices and at most one of each kind, after every step (R192). -/
def Obligations.StepKeepsNoticeQueues : Prop := Kept QueuesOk

/-- Every claim list stays ordered, with one record of a source at most and a proper holder, after every step (R9, R10,
R16). Every record's source is one the channel's table admits, a programmable entry's stands only with the store locked, and a
locked store leaves each channel at most 8 eligible sources (R4, R6, R11, R147, R183); so in a state that keeps both laws no
list holds more than 8 records (R10). -/
def Obligations.StepKeepsClaimLists : Prop :=
  Kept ListsOk ∧ Kept EligibleOk ∧
  ∀ s, ListsOk s → EligibleOk s → ∀ c, (s.cau.get c).claims.length ≤ 8

/-- Every brake claim stays between 0 and 850 kPa, with H between 0 and 600, after every step (R82). So does the halt floor:
every claim on BRK_B and BRK_C is at least H while BAU's floor flag stands, and the flag stands as the door security and the
kneel state last announced give it (R86, R87). In a state that keeps it, the effective setpoints of BRK_B and BRK_C are at
least H while the flag stands, and, once nothing waits to be taken, whenever a fitted door is UNSECURED or the kneel state
is not NORMAL (R87, the rest value of R1 for an empty list). That BAU learns of the two through announcements taken one at a
time, oldest first, is the model's form of R86 (Log 1). -/
def Obligations.StepKeepsBrakeSetpoints : Prop :=
  Kept BrakesOk ∧ Kept FloorOk ∧
  ∀ s, FloorOk s → ∀ axle : Axle, axle ≠ .a →
    let floored := ∃ v, s.effective (.brk axle) = .num v ∧ s.store.get 21 ≤ v ∧ v ≤ 850
    (s.bau.floor = true → floored) ∧
    (s.inFlight = [] →
      ((∃ n, s.store.doorFitted n = true ∧ s.dsv.unsecured.get n = true) ∨ s.lku.kneel ≠ .normal) →
        s.bau.floor = true ∧ floored)

/-- Whenever the at-rest flag is clear every release output is OFF, after every step (R139). -/
def Obligations.StepKeepsReleaseOutputs : Prop := Kept OutputsOk

/-- The voted demand and emergency flag stay no lower than those of any FRESH lane, after every step (R32). -/
def Obligations.StepKeepsVote : Prop := Kept VoteOk

/-- The mode is RUN or DEGRADED only while no kind of FATAL severity has its status set, after every step (R165). -/
def Obligations.StepKeepsFatalOut : Prop := Kept FatalOk

/-- The last sent steer value stays within the steer limit, after every step (R100). So do the claims on STR_C, and those on
JNT stay within [I_base, I_max]; in a state that keeps this the effective setpoint of STR_C lies within the steer limit and
that of JNT within [I_base, I_max], a claim's or the rest value (R100, R1). -/
def Obligations.StepKeepsSteerSent : Prop :=
  Kept SentOk ∧ Kept SteerJointOk ∧
  ∀ s, SteerJointOk s →
    (∃ v, s.effective .str = .num v ∧ -s.store.get 28 ≤ v ∧ v ≤ s.store.get 28) ∧
    (∃ v, s.effective .jnt = .num v ∧ s.store.get 32 ≤ v ∧ v ≤ s.store.get 33)

/-- Each axle load estimate stays within its limits, after every step (R76). -/
def Obligations.StepKeepsLoads : Prop := Kept LoadsOk

/-- The part right after a power-on reset keeps every one of these laws, and stands as R22, R40, R59, R71, R172, R185 and
R194 say, with every configuration item at the default its chapter gives: items 0 to 188 and 190 to 239 in ascending number
(R73, R94, R111, R180). That the transfer of each port is idle is the model's (Log 8), and that the queue of commands is empty (Log 6). -/
def Obligations.LawsHoldAtReset : Prop :=
  QueuesOk State.reset ∧ ListsOk State.reset ∧ BrakesOk State.reset ∧ OutputsOk State.reset ∧ VoteOk State.reset ∧
  FatalOk State.reset ∧ SentOk State.reset ∧ LoadsOk State.reset ∧ SteerJointOk State.reset ∧ FloorOk State.reset ∧
  EligibleOk State.reset ∧
  State.reset.mode = .powerup ∧ State.reset.mc.locked = false ∧ State.reset.mc.resetMode = .powerup ∧
  State.reset.mc.resetCause = .power ∧ (∀ n, State.reset.store.get n = itemDefault n) ∧
  ((List.range 240).filter (· ≠ 189)).map itemDefault =
    (List.replicate 3 [256, 150, 400, 1600, 800, 1100, 30]).flatten ++ [250, 600, 300] ++
    [512, -256, 150, 300, 120, 5, 550, 400, 200, 900, 40, 1, 1] ++ [60, 30, 300, 8, 3, 20, 320, -70, 6] ++ [5, 5] ++
    [4, 10, 200, 2000] ++ [50, 250, 1, 50, 20, 5] ++ [500] ++ [5, 300, 3, 1, 2, 3, 4, 5, 6, 7, 8, 9, 10, 11, 40, 10, 16] ++
    [10, 9, 8, 4] ++ (List.replicate 12 [0, 0, 0, 0, 0, 0, 0, 1, 4 * 65536]).flatten ++
    [0, 2, 1, 0, 0, 1, 0, 1, 1, 1, 0, 2, 1, 1, 1, 1, 0, 1, 0, 0] ++ List.replicate 21 0 ++ [1] ++
    [7, 3, 3, 4, 4, 4, 4, 3, 3] ∧
  (∀ c, State.reset.cau.get c = ⟨[], 0⟩) ∧ State.reset.fu = ⟨0, none, none, false, false, false, none, none⟩ ∧
  State.reset.lv.basis = .held ∧ State.reset.mru.v = 0 ∧ State.reset.mru.speedKnown = false ∧
  State.reset.mru.atRest = false ∧ State.reset.sju.lastSent = 0 ∧
  (∀ n, State.reset.flc.nodes.get n = ⟨.unpolled, 0, 0, 0, 0, 0⟩) ∧ State.reset.flc.txn = none ∧
  State.reset.flc.timer = none ∧ State.reset.pending = [] ∧
  ∀ p, State.reset.mpi.get p = ⟨⟨0x00, .ok, List.replicate 8 0⟩, [], false, .idle⟩
end

