-- ==== Sys2Proof/Laws/State.lean ====
section
/-! SUPPORT. One lemma for each shared update of State and each field it leaves alone, and for each field it writes
what the field becomes. All hold by rfl. -/

namespace Sys2Proof.Machine

variable (s : State)

@[simp] theorem announce_pending (evs : List Ev) : (announce evs s).pending = s.pending := rfl
@[simp] theorem announce_freeCount (evs : List Ev) : (announce evs s).freeCount = s.freeCount := rfl
@[simp] theorem announce_mpi (evs : List Ev) : (announce evs s).mpi = s.mpi := rfl
@[simp] theorem announce_lv (evs : List Ev) : (announce evs s).lv = s.lv := rfl
@[simp] theorem announce_cau (evs : List Ev) : (announce evs s).cau = s.cau := rfl
@[simp] theorem announce_ict (evs : List Ev) : (announce evs s).ict = s.ict := rfl
@[simp] theorem announce_bau (evs : List Ev) : (announce evs s).bau = s.bau := rfl
@[simp] theorem announce_sju (evs : List Ev) : (announce evs s).sju = s.sju := rfl
@[simp] theorem announce_lku (evs : List Ev) : (announce evs s).lku = s.lku := rfl
@[simp] theorem announce_dsv (evs : List Ev) : (announce evs s).dsv = s.dsv := rfl
@[simp] theorem announce_mru (evs : List Ev) : (announce evs s).mru = s.mru := rfl
@[simp] theorem announce_flc (evs : List Ev) : (announce evs s).flc = s.flc := rfl
@[simp] theorem announce_fu (evs : List Ev) : (announce evs s).fu = s.fu := rfl
@[simp] theorem announce_mc (evs : List Ev) : (announce evs s).mc = s.mc := rfl

@[simp] theorem offer_pending (n : Notice) : (offer n s).pending = s.pending := rfl
@[simp] theorem offer_inFlight (n : Notice) : (offer n s).inFlight = s.inFlight := rfl
@[simp] theorem offer_freeCount (n : Notice) : (offer n s).freeCount = s.freeCount := rfl
@[simp] theorem offer_lv (n : Notice) : (offer n s).lv = s.lv := rfl
@[simp] theorem offer_cau (n : Notice) : (offer n s).cau = s.cau := rfl
@[simp] theorem offer_ict (n : Notice) : (offer n s).ict = s.ict := rfl
@[simp] theorem offer_bau (n : Notice) : (offer n s).bau = s.bau := rfl
@[simp] theorem offer_sju (n : Notice) : (offer n s).sju = s.sju := rfl
@[simp] theorem offer_lku (n : Notice) : (offer n s).lku = s.lku := rfl
@[simp] theorem offer_dsv (n : Notice) : (offer n s).dsv = s.dsv := rfl
@[simp] theorem offer_mru (n : Notice) : (offer n s).mru = s.mru := rfl
@[simp] theorem offer_flc (n : Notice) : (offer n s).flc = s.flc := rfl
@[simp] theorem offer_fu (n : Notice) : (offer n s).fu = s.fu := rfl
@[simp] theorem offer_mc (n : Notice) : (offer n s).mc = s.mc := rfl

@[simp] theorem changeList_pending (c : Channel) (new : ClaimList) : (changeList c new s).pending = s.pending := rfl
@[simp] theorem changeList_freeCount (c : Channel) (new : ClaimList) : (changeList c new s).freeCount = s.freeCount := rfl
@[simp] theorem changeList_lv (c : Channel) (new : ClaimList) : (changeList c new s).lv = s.lv := rfl
@[simp] theorem changeList_ict (c : Channel) (new : ClaimList) : (changeList c new s).ict = s.ict := rfl
@[simp] theorem changeList_bau (c : Channel) (new : ClaimList) : (changeList c new s).bau = s.bau := rfl
@[simp] theorem changeList_sju (c : Channel) (new : ClaimList) : (changeList c new s).sju = s.sju := rfl
@[simp] theorem changeList_lku (c : Channel) (new : ClaimList) : (changeList c new s).lku = s.lku := rfl
@[simp] theorem changeList_dsv (c : Channel) (new : ClaimList) : (changeList c new s).dsv = s.dsv := rfl
@[simp] theorem changeList_mru (c : Channel) (new : ClaimList) : (changeList c new s).mru = s.mru := rfl
@[simp] theorem changeList_flc (c : Channel) (new : ClaimList) : (changeList c new s).flc = s.flc := rfl
@[simp] theorem changeList_fu (c : Channel) (new : ClaimList) : (changeList c new s).fu = s.fu := rfl
@[simp] theorem changeList_mc (c : Channel) (new : ClaimList) : (changeList c new s).mc = s.mc := rfl

@[simp] theorem drawFree_pending : (drawFree s).pending = s.pending := rfl
@[simp] theorem drawFree_inFlight : (drawFree s).inFlight = s.inFlight := rfl
@[simp] theorem drawFree_mpi : (drawFree s).mpi = s.mpi := rfl
@[simp] theorem drawFree_lv : (drawFree s).lv = s.lv := rfl
@[simp] theorem drawFree_cau : (drawFree s).cau = s.cau := rfl
@[simp] theorem drawFree_ict : (drawFree s).ict = s.ict := rfl
@[simp] theorem drawFree_bau : (drawFree s).bau = s.bau := rfl
@[simp] theorem drawFree_sju : (drawFree s).sju = s.sju := rfl
@[simp] theorem drawFree_lku : (drawFree s).lku = s.lku := rfl
@[simp] theorem drawFree_dsv : (drawFree s).dsv = s.dsv := rfl
@[simp] theorem drawFree_mru : (drawFree s).mru = s.mru := rfl
@[simp] theorem drawFree_flc : (drawFree s).flc = s.flc := rfl
@[simp] theorem drawFree_fu : (drawFree s).fu = s.fu := rfl
@[simp] theorem drawFree_mc : (drawFree s).mc = s.mc := rfl

@[simp] theorem clearLists_pending : (clearLists s).pending = s.pending := rfl
@[simp] theorem clearLists_freeCount : (clearLists s).freeCount = s.freeCount := rfl
@[simp] theorem clearLists_mpi : (clearLists s).mpi = s.mpi := rfl
@[simp] theorem clearLists_lv : (clearLists s).lv = s.lv := rfl
@[simp] theorem clearLists_ict : (clearLists s).ict = s.ict := rfl
@[simp] theorem clearLists_lku : (clearLists s).lku = s.lku := rfl
@[simp] theorem clearLists_dsv : (clearLists s).dsv = s.dsv := rfl
@[simp] theorem clearLists_mru : (clearLists s).mru = s.mru := rfl
@[simp] theorem clearLists_flc : (clearLists s).flc = s.flc := rfl
@[simp] theorem clearLists_fu : (clearLists s).fu = s.fu := rfl
@[simp] theorem clearLists_mc : (clearLists s).mc = s.mc := rfl

@[simp] theorem setMode_pending (m : Mode) : (setMode m s).pending = s.pending := rfl
@[simp] theorem setMode_freeCount (m : Mode) : (setMode m s).freeCount = s.freeCount := rfl
@[simp] theorem setMode_lv (m : Mode) : (setMode m s).lv = s.lv := rfl
@[simp] theorem setMode_cau (m : Mode) : (setMode m s).cau = s.cau := rfl
@[simp] theorem setMode_ict (m : Mode) : (setMode m s).ict = s.ict := rfl
@[simp] theorem setMode_bau (m : Mode) : (setMode m s).bau = s.bau := rfl
@[simp] theorem setMode_sju (m : Mode) : (setMode m s).sju = s.sju := rfl
@[simp] theorem setMode_lku (m : Mode) : (setMode m s).lku = s.lku := rfl
@[simp] theorem setMode_dsv (m : Mode) : (setMode m s).dsv = s.dsv := rfl
@[simp] theorem setMode_mru (m : Mode) : (setMode m s).mru = s.mru := rfl
@[simp] theorem setMode_flc (m : Mode) : (setMode m s).flc = s.flc := rfl
@[simp] theorem setMode_fu (m : Mode) : (setMode m s).fu = s.fu := rfl

@[simp] theorem detectRecord_pending (k : FaultKind) (src : FaultSource) (ch : Option Channel) (item : LogItem) : (detectRecord k src ch item s).pending = s.pending := rfl
@[simp] theorem detectRecord_inFlight (k : FaultKind) (src : FaultSource) (ch : Option Channel) (item : LogItem) : (detectRecord k src ch item s).inFlight = s.inFlight := rfl
@[simp] theorem detectRecord_freeCount (k : FaultKind) (src : FaultSource) (ch : Option Channel) (item : LogItem) : (detectRecord k src ch item s).freeCount = s.freeCount := rfl
@[simp] theorem detectRecord_lv (k : FaultKind) (src : FaultSource) (ch : Option Channel) (item : LogItem) : (detectRecord k src ch item s).lv = s.lv := rfl
@[simp] theorem detectRecord_cau (k : FaultKind) (src : FaultSource) (ch : Option Channel) (item : LogItem) : (detectRecord k src ch item s).cau = s.cau := rfl
@[simp] theorem detectRecord_ict (k : FaultKind) (src : FaultSource) (ch : Option Channel) (item : LogItem) : (detectRecord k src ch item s).ict = s.ict := rfl
@[simp] theorem detectRecord_bau (k : FaultKind) (src : FaultSource) (ch : Option Channel) (item : LogItem) : (detectRecord k src ch item s).bau = s.bau := rfl
@[simp] theorem detectRecord_sju (k : FaultKind) (src : FaultSource) (ch : Option Channel) (item : LogItem) : (detectRecord k src ch item s).sju = s.sju := rfl
@[simp] theorem detectRecord_lku (k : FaultKind) (src : FaultSource) (ch : Option Channel) (item : LogItem) : (detectRecord k src ch item s).lku = s.lku := rfl
@[simp] theorem detectRecord_dsv (k : FaultKind) (src : FaultSource) (ch : Option Channel) (item : LogItem) : (detectRecord k src ch item s).dsv = s.dsv := rfl
@[simp] theorem detectRecord_mru (k : FaultKind) (src : FaultSource) (ch : Option Channel) (item : LogItem) : (detectRecord k src ch item s).mru = s.mru := rfl
@[simp] theorem detectRecord_mc (k : FaultKind) (src : FaultSource) (ch : Option Channel) (item : LogItem) : (detectRecord k src ch item s).mc = s.mc := rfl

@[simp] theorem withFlc_pending (f : Flc) : (withFlc f s).pending = s.pending := rfl
@[simp] theorem withFlc_inFlight (f : Flc) : (withFlc f s).inFlight = s.inFlight := rfl
@[simp] theorem withFlc_freeCount (f : Flc) : (withFlc f s).freeCount = s.freeCount := rfl
@[simp] theorem withFlc_mpi (f : Flc) : (withFlc f s).mpi = s.mpi := rfl
@[simp] theorem withFlc_lv (f : Flc) : (withFlc f s).lv = s.lv := rfl
@[simp] theorem withFlc_cau (f : Flc) : (withFlc f s).cau = s.cau := rfl
@[simp] theorem withFlc_ict (f : Flc) : (withFlc f s).ict = s.ict := rfl
@[simp] theorem withFlc_bau (f : Flc) : (withFlc f s).bau = s.bau := rfl
@[simp] theorem withFlc_sju (f : Flc) : (withFlc f s).sju = s.sju := rfl
@[simp] theorem withFlc_lku (f : Flc) : (withFlc f s).lku = s.lku := rfl
@[simp] theorem withFlc_dsv (f : Flc) : (withFlc f s).dsv = s.dsv := rfl
@[simp] theorem withFlc_mru (f : Flc) : (withFlc f s).mru = s.mru := rfl
@[simp] theorem withFlc_fu (f : Flc) : (withFlc f s).fu = s.fu := rfl
@[simp] theorem withFlc_mc (f : Flc) : (withFlc f s).mc = s.mc := rfl

@[simp] theorem setNode_pending (n : Node) (r : NodeRec) : (setNode n r s).pending = s.pending := rfl
@[simp] theorem setNode_freeCount (n : Node) (r : NodeRec) : (setNode n r s).freeCount = s.freeCount := rfl
@[simp] theorem setNode_mpi (n : Node) (r : NodeRec) : (setNode n r s).mpi = s.mpi := rfl
@[simp] theorem setNode_lv (n : Node) (r : NodeRec) : (setNode n r s).lv = s.lv := rfl
@[simp] theorem setNode_cau (n : Node) (r : NodeRec) : (setNode n r s).cau = s.cau := rfl
@[simp] theorem setNode_ict (n : Node) (r : NodeRec) : (setNode n r s).ict = s.ict := rfl
@[simp] theorem setNode_bau (n : Node) (r : NodeRec) : (setNode n r s).bau = s.bau := rfl
@[simp] theorem setNode_sju (n : Node) (r : NodeRec) : (setNode n r s).sju = s.sju := rfl
@[simp] theorem setNode_lku (n : Node) (r : NodeRec) : (setNode n r s).lku = s.lku := rfl
@[simp] theorem setNode_dsv (n : Node) (r : NodeRec) : (setNode n r s).dsv = s.dsv := rfl
@[simp] theorem setNode_mru (n : Node) (r : NodeRec) : (setNode n r s).mru = s.mru := rfl
@[simp] theorem setNode_fu (n : Node) (r : NodeRec) : (setNode n r s).fu = s.fu := rfl
@[simp] theorem setNode_mc (n : Node) (r : NodeRec) : (setNode n r s).mc = s.mc := rfl

@[simp] theorem setCorner_pending (k : Corner) (c : CornerState) : (setCorner k c s).pending = s.pending := rfl
@[simp] theorem setCorner_inFlight (k : Corner) (c : CornerState) : (setCorner k c s).inFlight = s.inFlight := rfl
@[simp] theorem setCorner_freeCount (k : Corner) (c : CornerState) : (setCorner k c s).freeCount = s.freeCount := rfl
@[simp] theorem setCorner_mpi (k : Corner) (c : CornerState) : (setCorner k c s).mpi = s.mpi := rfl
@[simp] theorem setCorner_lv (k : Corner) (c : CornerState) : (setCorner k c s).lv = s.lv := rfl
@[simp] theorem setCorner_cau (k : Corner) (c : CornerState) : (setCorner k c s).cau = s.cau := rfl
@[simp] theorem setCorner_ict (k : Corner) (c : CornerState) : (setCorner k c s).ict = s.ict := rfl
@[simp] theorem setCorner_bau (k : Corner) (c : CornerState) : (setCorner k c s).bau = s.bau := rfl
@[simp] theorem setCorner_sju (k : Corner) (c : CornerState) : (setCorner k c s).sju = s.sju := rfl
@[simp] theorem setCorner_dsv (k : Corner) (c : CornerState) : (setCorner k c s).dsv = s.dsv := rfl
@[simp] theorem setCorner_mru (k : Corner) (c : CornerState) : (setCorner k c s).mru = s.mru := rfl
@[simp] theorem setCorner_flc (k : Corner) (c : CornerState) : (setCorner k c s).flc = s.flc := rfl
@[simp] theorem setCorner_fu (k : Corner) (c : CornerState) : (setCorner k c s).fu = s.fu := rfl
@[simp] theorem setCorner_mc (k : Corner) (c : CornerState) : (setCorner k c s).mc = s.mc := rfl

@[simp] theorem setKneel_pending (k : KneelState) : (setKneel k s).pending = s.pending := rfl
@[simp] theorem setKneel_freeCount (k : KneelState) : (setKneel k s).freeCount = s.freeCount := rfl
@[simp] theorem setKneel_mpi (k : KneelState) : (setKneel k s).mpi = s.mpi := rfl
@[simp] theorem setKneel_lv (k : KneelState) : (setKneel k s).lv = s.lv := rfl
@[simp] theorem setKneel_cau (k : KneelState) : (setKneel k s).cau = s.cau := rfl
@[simp] theorem setKneel_ict (k : KneelState) : (setKneel k s).ict = s.ict := rfl
@[simp] theorem setKneel_bau (k : KneelState) : (setKneel k s).bau = s.bau := rfl
@[simp] theorem setKneel_sju (k : KneelState) : (setKneel k s).sju = s.sju := rfl
@[simp] theorem setKneel_dsv (k : KneelState) : (setKneel k s).dsv = s.dsv := rfl
@[simp] theorem setKneel_mru (k : KneelState) : (setKneel k s).mru = s.mru := rfl
@[simp] theorem setKneel_flc (k : KneelState) : (setKneel k s).flc = s.flc := rfl
@[simp] theorem setKneel_fu (k : KneelState) : (setKneel k s).fu = s.fu := rfl
@[simp] theorem setKneel_mc (k : KneelState) : (setKneel k s).mc = s.mc := rfl

@[simp] theorem answer_pending (p : Port) (k : Byte) (r : Reply) : (answer p k r s).pending = s.pending := rfl
@[simp] theorem answer_inFlight (p : Port) (k : Byte) (r : Reply) : (answer p k r s).inFlight = s.inFlight := rfl
@[simp] theorem answer_freeCount (p : Port) (k : Byte) (r : Reply) : (answer p k r s).freeCount = s.freeCount := rfl
@[simp] theorem answer_lv (p : Port) (k : Byte) (r : Reply) : (answer p k r s).lv = s.lv := rfl
@[simp] theorem answer_cau (p : Port) (k : Byte) (r : Reply) : (answer p k r s).cau = s.cau := rfl
@[simp] theorem answer_ict (p : Port) (k : Byte) (r : Reply) : (answer p k r s).ict = s.ict := rfl
@[simp] theorem answer_bau (p : Port) (k : Byte) (r : Reply) : (answer p k r s).bau = s.bau := rfl
@[simp] theorem answer_sju (p : Port) (k : Byte) (r : Reply) : (answer p k r s).sju = s.sju := rfl
@[simp] theorem answer_lku (p : Port) (k : Byte) (r : Reply) : (answer p k r s).lku = s.lku := rfl
@[simp] theorem answer_dsv (p : Port) (k : Byte) (r : Reply) : (answer p k r s).dsv = s.dsv := rfl
@[simp] theorem answer_mru (p : Port) (k : Byte) (r : Reply) : (answer p k r s).mru = s.mru := rfl
@[simp] theorem answer_flc (p : Port) (k : Byte) (r : Reply) : (answer p k r s).flc = s.flc := rfl
@[simp] theorem answer_fu (p : Port) (k : Byte) (r : Reply) : (answer p k r s).fu = s.fu := rfl
@[simp] theorem answer_mc (p : Port) (k : Byte) (r : Reply) : (answer p k r s).mc = s.mc := rfl

@[simp] theorem closeTransfer_pending (p : Port) : (closeTransfer p s).pending = s.pending := rfl
@[simp] theorem closeTransfer_inFlight (p : Port) : (closeTransfer p s).inFlight = s.inFlight := rfl
@[simp] theorem closeTransfer_freeCount (p : Port) : (closeTransfer p s).freeCount = s.freeCount := rfl
@[simp] theorem closeTransfer_lv (p : Port) : (closeTransfer p s).lv = s.lv := rfl
@[simp] theorem closeTransfer_cau (p : Port) : (closeTransfer p s).cau = s.cau := rfl
@[simp] theorem closeTransfer_ict (p : Port) : (closeTransfer p s).ict = s.ict := rfl
@[simp] theorem closeTransfer_bau (p : Port) : (closeTransfer p s).bau = s.bau := rfl
@[simp] theorem closeTransfer_sju (p : Port) : (closeTransfer p s).sju = s.sju := rfl
@[simp] theorem closeTransfer_lku (p : Port) : (closeTransfer p s).lku = s.lku := rfl
@[simp] theorem closeTransfer_dsv (p : Port) : (closeTransfer p s).dsv = s.dsv := rfl
@[simp] theorem closeTransfer_mru (p : Port) : (closeTransfer p s).mru = s.mru := rfl
@[simp] theorem closeTransfer_flc (p : Port) : (closeTransfer p s).flc = s.flc := rfl
@[simp] theorem closeTransfer_fu (p : Port) : (closeTransfer p s).fu = s.fu := rfl
@[simp] theorem closeTransfer_mc (p : Port) : (closeTransfer p s).mc = s.mc := rfl

@[simp] theorem announce_inFlight (evs : List Ev) : (announce evs s).inFlight = s.inFlight ++ evs := rfl
@[simp] theorem offer_mpi (n : Notice) : (offer n s).mpi = offerPorts s.store n s.mpi := rfl
@[simp] theorem changeList_cau (c : Channel) (new : ClaimList) : (changeList c new s).cau = s.cau.set c new := rfl
@[simp] theorem drawFree_freeCount : (drawFree s).freeCount = s.freeCount + 1 := rfl
@[simp] theorem clearLists_cau : (clearLists s).cau = cauReset := rfl
@[simp] theorem setMode_mc (m : Mode) : (setMode m s).mc = mcEnter m s.mc := rfl
@[simp] theorem setMode_mode (m : Mode) : (setMode m s).mode = m := rfl
@[simp] theorem setMode_store (m : Mode) : (setMode m s).store = s.store := rfl
@[simp] theorem withFlc_flc (f : Flc) : (withFlc f s).flc = f := rfl
@[simp] theorem setKneel_inFlight (k : KneelState) : (setKneel k s).inFlight = s.inFlight ++ [.kneel k] := rfl

/-! Tables: what is read after a write. -/

@[simp] theorem PerPort_get_set {α : Type} (t : PerPort α) (i j : Port) (x : α) :
    (t.set i x).get j = if j = i then x else t.get j := by cases i <;> cases j <;> rfl

@[simp] theorem PerPort_get_of {α : Type} (f : Port → α) (i : Port) : (PerPort.of f).get i = f i := by
  cases i <;> rfl

@[simp] theorem PerLane_get_set {α : Type} (t : PerLane α) (i j : Lane) (x : α) :
    (t.set i x).get j = if j = i then x else t.get j := by cases i <;> cases j <;> rfl

@[simp] theorem PerLane_get_of {α : Type} (f : Lane → α) (i : Lane) : (PerLane.of f).get i = f i := by
  cases i <;> rfl

@[simp] theorem PerAxle_get_set {α : Type} (t : PerAxle α) (i j : Axle) (x : α) :
    (t.set i x).get j = if j = i then x else t.get j := by cases i <;> cases j <;> rfl

@[simp] theorem PerAxle_get_of {α : Type} (f : Axle → α) (i : Axle) : (PerAxle.of f).get i = f i := by
  cases i <;> rfl

@[simp] theorem PerCorner_get_set {α : Type} (t : PerCorner α) (i j : Corner) (x : α) :
    (t.set i x).get j = if j = i then x else t.get j := by cases i <;> cases j <;> rfl

@[simp] theorem PerCorner_get_of {α : Type} (f : Corner → α) (i : Corner) : (PerCorner.of f).get i = f i := by
  cases i <;> rfl

@[simp] theorem PerDoor_get_set {α : Type} (t : PerDoor α) (i j : Door) (x : α) :
    (t.set i x).get j = if j = i then x else t.get j := by cases i <;> cases j <;> rfl

@[simp] theorem PerDoor_get_of {α : Type} (f : Door → α) (i : Door) : (PerDoor.of f).get i = f i := by
  cases i <;> rfl

@[simp] theorem PerChannel_get_of {α : Type} (f : Channel → α) (i : Channel) : (PerChannel.of f).get i = f i := by
  cases i <;> simp [PerChannel.of, PerChannel.get]

@[simp] theorem PerChannel_get_set {α : Type} (t : PerChannel α) (i j : Channel) (x : α) :
    (t.set i x).get j = if j = i then x else t.get j := by
  cases i <;> cases j <;> simp [PerChannel.set, PerChannel.get]

@[simp] theorem PerNode_get_of {α : Type} (f : Node → α) (i : Node) : (PerNode.of f).get i = f i := by
  cases i <;> simp [PerNode.of, PerNode.get]

@[simp] theorem PerNode_get_set {α : Type} (t : PerNode α) (i j : Node) (x : α) :
    (t.set i x).get j = if j = i then x else t.get j := by
  cases i <;> cases j <;> simp [PerNode.set, PerNode.get]

/-! Sets: the bit of a member (R189). -/

theorem axleSet_bit (t : PerAxle Bool) (x : Axle) : (axleSet t).getLsbD (axleNo x) = t.get x := by
  rcases t with ⟨a, b, c⟩
  cases x <;> cases a <;> cases b <;> cases c <;> rfl

theorem cornerSet_bit (t : PerCorner Bool) (k : Corner) : (cornerSet t).getLsbD (cornerNo k) = t.get k := by
  rcases t with ⟨a, b, c, d, e, f⟩
  cases k <;> cases a <;> cases b <;> cases c <;> cases d <;> cases e <;> cases f <;> rfl

end Sys2Proof.Machine
end

