-- ==== Sys2Proof/Laws/Ops.lean ====
section
/-! SUPPORT. One lemma per shared operation: all that it can change. -/

namespace Sys2Proof.Machine

variable (s : State)

/-- A change of list reaches that list, MPI's queues and the announcements, and nothing else. -/
theorem changeList_frame (c : Channel) (new : ClaimList) :
    changeList c new s =
      { s with
        cau := s.cau.set c new
        mpi := (changeList c new s).mpi
        inFlight := (changeList c new s).inFlight } := rfl

/-- A placement reaches CAU, MPI's queues, the announcements and BAU's given values, and nothing else. -/
theorem placeClaim_frame (src : Source) (c : Channel) :
    placeClaim src c s =
      { s with
        cau := (placeClaim src c s).cau
        mpi := (placeClaim src c s).mpi
        inFlight := (placeClaim src c s).inFlight
        bau := { s.bau with given := (placeClaim src c s).bau.given } } := by
  unfold placeClaim; split <;> rfl

/-- A placement leaves the lists of the other channels alone. -/
theorem placeClaim_cau_of_ne (src : Source) (c d : Channel) (h : d ≠ c) :
    (placeClaim src c s).cau.get d = s.cau.get d := by
  unfold placeClaim; split <;> simp [h]

/-- A placement that CAU accepts puts the new list in. -/
theorem placeClaim_cau (src : Source) (c : Channel) (h : accepts s src c = true) :
    (placeClaim src c s).cau.get c = placedList s src c := by
  unfold placeClaim; simp [h]

/-- A placement that CAU does not accept changes nothing. -/
theorem placeClaim_dropped (src : Source) (c : Channel) (h : accepts s src c = false) : placeClaim src c s = s := by
  unfold placeClaim; simp [h]

/-- A withdrawal reaches CAU, MPI's queues and the announcements, and nothing else. -/
theorem withdrawClaim_frame (src : Source) (c : Channel) :
    withdrawClaim src c s =
      { s with
        cau := s.cau.set c (withdrawList src (s.cau.get c))
        mpi := (withdrawClaim src c s).mpi
        inFlight := (withdrawClaim src c s).inFlight } := rfl

/-- A rewrite reaches CAU, MPI's queues and the announcements, and nothing else. -/
theorem rewriteChannel_frame (c : Channel) (f : Source → Option Setpoint) :
    rewriteChannel c f s =
      { s with
        cau := s.cau.set c (rewriteList (fun src => (f src).map (s.store.toDomain c)) (s.cau.get c))
        mpi := (rewriteChannel c f s).mpi
        inFlight := (rewriteChannel c f s).inFlight } := rfl

/-- What is kept by every placement is kept by several. -/
theorem placeClaims_induction (P : State → Prop) (src : Source) (h : ∀ c t, P t → P (placeClaim src c t))
    (cs : List Channel) : ∀ s, P s → P (placeClaims src cs s) := by
  induction cs with
  | nil => exact fun s hs => hs
  | cons c cs ih => exact fun s hs => ih _ (h c s hs)

/-- What is kept by every withdrawal is kept by several. -/
theorem withdrawClaims_induction (P : State → Prop) (src : Source) (h : ∀ c t, P t → P (withdrawClaim src c t))
    (cs : List Channel) : ∀ s, P s → P (withdrawClaims src cs s) := by
  induction cs with
  | nil => exact fun s hs => hs
  | cons c cs ih => exact fun s hs => ih _ (h c s hs)

/-- What is kept by every rewrite is kept by several. -/
theorem rewriteChannels_induction (P : State → Prop) (f : Channel → Source → Option Setpoint)
    (h : ∀ c t, P t → P (rewriteChannel c (f c) t)) (cs : List Channel) : ∀ s, P s → P (rewriteChannels cs f s) := by
  induction cs with
  | nil => exact fun s hs => hs
  | cons c cs ih => exact fun s hs => ih _ (h c s hs)

/-- What is kept by the judgement of every entry is kept by that of several. -/
theorem judgeEntries_induction (P : State → Prop) (h : ∀ e t, P t → P (judgeEntry e t)) (es : List Entry) :
    ∀ s, P s → P (judgeEntries es s) := by
  induction es with
  | nil => exact fun s hs => hs
  | cons e es ih => exact fun s hs => ih _ (h e s hs)

/-- A mode change reaches MC, MPI's queues and the announcements, and nothing else. -/
theorem setMode_frame (m : Mode) :
    setMode m s =
      { s with
        mc := mcEnter m s.mc
        mpi := (setMode m s).mpi
        inFlight := s.inFlight ++ [.mode s.mode m] } := rfl

/-- The mode effect changes the mode to DEGRADED or SAFE_STOP alone (R165). -/
theorem modeAfter_cases (sev : Severity) (m : Mode) :
    modeAfter sev m = m ∨ modeAfter sev m = .degraded ∨ modeAfter sev m = .safeStop := by
  cases sev <;> cases m <;> simp [modeAfter]

/-- A detection reaches FU, FLC's code accumulator, MC, MPI's queues and the announcements, and nothing else. -/
theorem detect_frame (k : FaultKind) (src : FaultSource) (ch : Option Channel) (item : List Byte) :
    detect k src ch item s =
      { s with
        fu := (detect k src ch item s).fu
        flc := { s.flc with codes := (detect k src ch item s).flc.codes }
        mc := (detect k src ch item s).mc
        mpi := (detect k src ch item s).mpi
        inFlight := (detect k src ch item s).inFlight } := by
  unfold detect; split
  · rfl
  · split <;> rfl

/-- MC after a detection: as before, or after a change to DEGRADED or SAFE_STOP. -/
theorem detect_mc (k : FaultKind) (src : FaultSource) (ch : Option Channel) (item : List Byte) :
    (detect k src ch item s).mc = s.mc ∨
      ∃ m, (m = .degraded ∨ m = .safeStop) ∧ (detect k src ch item s).mc = mcEnter m s.mc := by
  unfold detect; split
  · exact .inl rfl
  · split
    · exact .inl rfl
    · rename_i h
      refine .inr ⟨detectMode k s, ?_, rfl⟩
      exact (modeAfter_cases _ s.mode).resolve_left h

/-- A detection leaves the store alone. -/
@[simp] theorem detect_store (k : FaultKind) (src : FaultSource) (ch : Option Channel) (item : List Byte) :
    (detect k src ch item s).store = s.store := by
  unfold detect; split
  · rfl
  · split <;> rfl

/-! Requests: one lemma for each answer before the owning block's (R188). -/

theorem request_abandoned (p : Port) (r k : Byte) (ports : Port → Bool) (owner : State → State × Option Reply)
    (h : isAbandoned p s = true) : request p r k ports owner s = s := by
  unfold request; simp [h]

theorem request_owned (p : Port) (r k : Byte) (ports : Port → Bool) (owner : State → State × Option Reply)
    (h : isAbandoned p s = false) (hm : s.mode ≠ .powerup) (hr : r = 0) (hp : ports p = true) :
    request p r k ports owner s = owned p k (owner (closeTransfer p s)) := by
  unfold request; simp [h, hm, hr, hp]

/-- Every way a request can end. -/
theorem request_cases (p : Port) (r k : Byte) (ports : Port → Bool) (owner : State → State × Option Reply) :
    request p r k ports owner s = s ∨ (∃ rep, request p r k ports owner s = answer p k rep (closeTransfer p s)) ∨
      request p r k ports owner s = owned p k (owner (closeTransfer p s)) := by
  unfold request
  split_ifs
  · exact .inl rfl
  · exact .inr (.inl ⟨_, rfl⟩)
  · exact .inr (.inl ⟨_, rfl⟩)
  · exact .inr (.inl ⟨_, rfl⟩)
  · exact .inr (.inr rfl)

/-! Announcements -/

/-- What the taking of each announcement keeps, the taking of many keeps. -/
theorem settle_induction (P : State → Prop)
    (h : ∀ e rest t, t.inFlight = e :: rest → P t → P (handle e { t with inFlight := rest })) (n : Nat) :
    ∀ s, P s → P (settle n s) := by
  induction n with
  | zero => exact fun s hs => hs
  | succ n ih =>
    intro s hs
    unfold settle
    split
    · exact hs
    · rename_i e rest he
      exact ih _ (h e rest s he hs)

theorem settle_of_empty (n : Nat) (h : s.inFlight = []) : settle n s = s := by
  cases n with
  | zero => rfl
  | succ n => unfold settle; simp [h]

/-- The link with a transaction in flight begins nothing. -/
theorem advance_of_txn (t : Txn) (h : s.flc.txn = some t) : advance s = s := by
  unfold advance; simp [h]

end Sys2Proof.Machine
end

