-- ==== Sys2Proof/Laws/Mild.lean ====
section
/-! SUPPORT. What the taking of an announcement cannot change: the queue of commands, the store and its lock, FLC's node
records, and, unless the announcement is a change into a mode other than DEGRADED or SAFE_STOP, LV and what DSV was
told. -/

namespace Sys2Proof.Machine

/-- An announcement that is no mode change but one into DEGRADED or SAFE_STOP. -/
def calm : Ev → Bool
  | .mode _ m => m == .degraded || m == .safeStop
  | _ => true

/-- From `s` to `t` the queue of commands, the store, its lock, LV, what DSV was told and FLC's node
records stand. -/
structure Same (s t : State) : Prop where
  pending : t.pending = s.pending
  store : t.store = s.store
  locked : t.mc.locked = s.mc.locked
  lv : t.lv = s.lv
  contacts : t.dsv.contacts = s.dsv.contacts
  reports : t.dsv.reports = s.dsv.reports
  unsecured : t.dsv.unsecured = s.dsv.unsecured
  disagree : t.dsv.disagree = s.dsv.disagree
  raised : t.dsv.raised = s.dsv.raised
  since : t.dsv.since = s.dsv.since
  stale : t.dsv.stale = s.dsv.stale
  nodes : t.flc.nodes = s.flc.nodes
  ready : s.mc.ready = ⟨none, none⟩ → t.mc.ready = ⟨none, none⟩
  statuses : ∀ k, s.fu.has k = true → t.fu.has k = true

theorem Same.refl (s : State) : Same s s := ⟨rfl, rfl, rfl, rfl, rfl, rfl, rfl, rfl, rfl, rfl, rfl, rfl, id, fun _ => id⟩

theorem Same.trans {s t u : State} (h : Same s t) (g : Same t u) : Same s u :=
  ⟨g.pending.trans h.pending, g.store.trans h.store, g.locked.trans h.locked, g.lv.trans h.lv,
    g.contacts.trans h.contacts, g.reports.trans h.reports, g.unsecured.trans h.unsecured,
    g.disagree.trans h.disagree, g.raised.trans h.raised, g.since.trans h.since, g.stale.trans h.stale,
    g.nodes.trans h.nodes, fun hr => g.ready (h.ready hr), fun k hk => g.statuses k (h.statuses k hk)⟩

/-- `Same`, and the announcements added are calm. -/
structure Mild (s t : State) : Prop where
  same : Same s t
  added : ∃ evs, t.inFlight = s.inFlight ++ evs ∧ evs.all calm = true

theorem Mild.refl (s : State) : Mild s s := ⟨.refl s, [], by simp, rfl⟩

theorem Mild.trans {s t u : State} (h : Mild s t) (g : Mild t u) : Mild s u := by
  obtain ⟨x, hx, cx⟩ := h.added
  obtain ⟨y, hy, cy⟩ := g.added
  exact ⟨h.same.trans g.same, x ++ y, by rw [hy, hx, List.append_assoc], by rw [List.all_append, cx, cy]; rfl⟩

/-- A change that touches none of the fields and announces nothing. -/
theorem Mild.of_eq {s t : State} (h1 : t.pending = s.pending) (h2 : t.store = s.store)
    (h3 : t.mc.locked = s.mc.locked) (h4 : t.lv = s.lv) (h5 : t.inFlight = s.inFlight) (h6 : t.dsv = s.dsv)
    (h7 : t.flc.nodes = s.flc.nodes) (h8 : t.mc.ready = s.mc.ready) (h9 : t.fu = s.fu) : Mild s t :=
  ⟨⟨h1, h2, h3, h4, by rw [h6], by rw [h6], by rw [h6], by rw [h6], by rw [h6], by rw [h6], by rw [h6], h7,
    by rw [h8]; exact id, by rw [h9]; exact fun _ => id⟩, [],
    by rw [h5, List.append_nil], rfl⟩

/-- The same, the last step first. -/
theorem Mild.after {s t u : State} (g : Mild t u) (h : Mild s t) : Mild s u := h.trans g

/-- A chain of two: the second step is taken from whatever the first leaves. -/
theorem Mild.andThen {s t : State} {f : State → State} (h : Mild s t) (g : ∀ u, Mild u (f u)) : Mild s (f t) :=
  h.trans (g t)

variable (s : State)

theorem announce_mild (evs : List Ev) (h : evs.all calm = true) : Mild s (announce evs s) :=
  ⟨⟨rfl, rfl, rfl, rfl, rfl, rfl, rfl, rfl, rfl, rfl, rfl, rfl, id, fun _ => id⟩, evs, rfl, h⟩

theorem channelEvents_calm (st : Store) (c : Channel) (old new : List Claim) :
    (channelEvents st c old new).all calm = true := by
  unfold channelEvents; split <;> rfl

theorem changeList_mild (c : Channel) (new : ClaimList) : Mild s (changeList c new s) :=
  ⟨⟨rfl, rfl, rfl, rfl, rfl, rfl, rfl, rfl, rfl, rfl, rfl, rfl, id, fun _ => id⟩, _, rfl, channelEvents_calm _ _ _ _⟩

theorem placeClaim_mild (src : Source) (c : Channel) : Mild s (placeClaim src c s) := by
  unfold placeClaim; split
  · exact Mild.after (changeList_mild _ _ _) (.of_eq rfl rfl rfl rfl rfl rfl rfl rfl rfl)
  · exact .refl s

theorem placeClaims_mild (src : Source) (cs : List Channel) : Mild s (placeClaims src cs s) :=
  placeClaims_induction (Mild s) src (fun _ _ h => h.andThen fun u => placeClaim_mild u _ _) cs s (.refl s)

theorem withdrawClaim_mild (src : Source) (c : Channel) : Mild s (withdrawClaim src c s) := changeList_mild _ _ _

theorem withdrawClaims_mild (src : Source) (cs : List Channel) : Mild s (withdrawClaims src cs s) :=
  withdrawClaims_induction (Mild s) src (fun _ _ h => h.andThen fun u => withdrawClaim_mild u _ _) cs s (.refl s)

theorem rewriteChannel_mild (c : Channel) (f : Source → Option Setpoint) : Mild s (rewriteChannel c f s) :=
  changeList_mild _ _ _

theorem rewriteChannels_mild (cs : List Channel) (f : Channel → Source → Option Setpoint) :
    Mild s (rewriteChannels cs f s) :=
  rewriteChannels_induction (Mild s) f (fun _ _ h => h.andThen fun u => rewriteChannel_mild u _ _) cs s (.refl s)

theorem clearLists_mild : Mild s (clearLists s) :=
  ⟨⟨rfl, rfl, rfl, rfl, rfl, rfl, rfl, rfl, rfl, rfl, rfl, rfl, id, fun _ => id⟩, _, rfl, by
    simp only [clearEvents, List.all_flatMap, List.all_eq_true]
    intro c _ e he
    exact List.all_eq_true.1 (channelEvents_calm _ _ _ _) e he⟩

theorem fuMarked_has (st : Store) (k : FaultKind) (src : FaultSource) (ch : Option Channel) (item : LogItem) (f : Fu)
    (j : FaultKind) (h : f.has j = true) : (fuMarked st k src ch item f).has j = true := by
  unfold Fu.has at h ⊢
  simp [fuMarked, h]

theorem readyAfter_clear (prev new : Mode) (r : PerLane (Option Nat)) (h : r = ⟨none, none⟩) :
    readyAfter prev new r = ⟨none, none⟩ := by
  unfold readyAfter; split
  · exact h
  · rfl

theorem detectRecord_mild (k : FaultKind) (src : FaultSource) (ch : Option Channel) (item : LogItem) :
    Mild s (detectRecord k src ch item s) :=
  ⟨⟨rfl, rfl, rfl, rfl, rfl, rfl, rfl, rfl, rfl, rfl, rfl, rfl, id, fun j h => fuMarked_has s.store k src ch item s.fu j h⟩,
    [], (List.append_nil _).symm, rfl⟩

theorem setMode_mild (m : Mode) (h : m = .degraded ∨ m = .safeStop) : Mild s (setMode m s) :=
  ⟨⟨rfl, rfl, rfl, rfl, rfl, rfl, rfl, rfl, rfl, rfl, rfl, rfl, readyAfter_clear _ _ _, fun _ => id⟩,
    [_], rfl, by rcases h with rfl | rfl <;> rfl⟩

theorem detect_mild (k : FaultKind) (src : FaultSource) (ch : Option Channel) (item : List Byte) :
    Mild s (detect k src ch item s) := by
  unfold detect; split
  · exact .refl s
  · split
    · exact detectRecord_mild _ _ _ _ _
    · rename_i h
      exact (detectRecord_mild _ _ _ _ _).trans (setMode_mild _ _ ((modeAfter_cases _ s.mode).resolve_left h))

/-- A detection outside POWERUP sets its kind's status (R158). -/
theorem detect_has (k : FaultKind) (src : FaultSource) (ch : Option Channel) (item : List Byte)
    (h : s.mode ≠ .powerup) : (detect k src ch item s).fu.has k = true := by
  have hk : (kindBit k).getLsbD k.no = true := by cases k <;> rfl
  unfold detect; rw [if_neg h]; split <;> simp [Fu.has, setMode, detectRecord, fuMarked, hk]

/-! BAU -/

theorem raiseSaturated_mild (b : PerAxle Bool) (x : Axle) : Mild s (raiseSaturated b x s) := by
  unfold raiseSaturated; split
  · exact detect_mild _ _ _ _ _
  · exact .refl s

theorem bauRecompute_mild : Mild s (bauRecompute s) := by
  have h0 : Mild s { s with bau := { s.bau with saturated := saturationNow s.store s.bau } } :=
    .of_eq rfl rfl rfl rfl rfl rfl rfl rfl rfl
  exact (((((h0.trans (raiseSaturated_mild _ _ _)).trans (raiseSaturated_mild _ _ _)).trans
    (raiseSaturated_mild _ _ _)).trans (rewriteChannel_mild _ _ _)).trans (rewriteChannel_mild _ _ _)).trans
    (rewriteChannel_mild _ _ _)

/-- BAU's copies take a value and it recomputes. -/
theorem bauWith_mild (b : Bau) : Mild s (bauRecompute { s with bau := b }) :=
  Mild.after (bauRecompute_mild _) (.of_eq rfl rfl rfl rfl rfl rfl rfl rfl rfl)

theorem bauDemand_mild (d : Int) : Mild s (bauDemand d s) := by
  unfold bauDemand; split
  · exact .refl s
  · exact bauWith_mild _ _

theorem bauEmerg_mild (b : Bool) : Mild s (bauEmerg b s) := by
  unfold bauEmerg; split
  · exact .refl s
  · exact bauWith_mild _ _

theorem bauAtRest_mild (b : Bool) : Mild s (bauAtRest b s) := by
  unfold bauAtRest; split
  · exact .refl s
  · exact bauWith_mild _ _

theorem bauFloor_mild (d : PerDoor Bool) (k : KneelState) : Mild s (bauFloor d k s) := by
  unfold bauFloor; split
  · exact .of_eq rfl rfl rfl rfl rfl rfl rfl rfl rfl
  · exact bauWith_mild _ _

theorem bauNode_mild (x : Axle) (st : NodeState) : Mild s (bauNode x st s) := by
  unfold bauNode; split
  · exact .refl s
  · exact bauWith_mild _ _

theorem bauMode_mild (prev new : Mode) : Mild s (bauMode prev new s) := bauWith_mild _ _

/-! SJU -/

theorem runSteer_mild (j : Sju) : Mild s (runSteer j s) :=
  Mild.after (rewriteChannel_mild _ _ _) (.of_eq rfl rfl rfl rfl rfl rfl rfl rfl rfl)

theorem runJoint_mild : Mild s (runJoint s) := by
  unfold runJoint; split
  · exact Mild.after (placeClaim_mild _ _ _) (.of_eq rfl rfl rfl rfl rfl rfl rfl rfl rfl)
  · exact .of_eq rfl rfl rfl rfl rfl rfl rfl rfl rfl

theorem centre_mild : Mild s (centre s) := by
  unfold centre; split
  · exact placeClaim_mild _ _ _
  · exact withdrawClaim_mild _ _ _

theorem setCentring_mild (c : Centring) : Mild s (setCentring c s) := by
  unfold setCentring; split
  · exact .refl s
  · exact Mild.after (centre_mild _) (.of_eq rfl rfl rfl rfl rfl rfl rfl rfl rfl)

theorem judgeExcursion_mild : Mild s (judgeExcursion s) := by
  unfold judgeExcursion; split
  · split
    · exact .refl s
    · exact (detect_mild _ _ _ _ _).trans (setCentring_mild _ _)
  · exact setCentring_mild _ _

theorem sjuTheta_mild (th r : Int) (v smp : Bool) : Mild s (sjuTheta th r v smp s) := by
  unfold sjuTheta; split
  · exact ((runSteer_mild _ _).trans (runJoint_mild _)).trans (judgeExcursion_mild _)
  · exact (runSteer_mild _ _).trans (runJoint_mild _)

theorem sjuAtRest_mild (b : Bool) : Mild s (sjuAtRest b s) :=
  Mild.after (runJoint_mild _) (.of_eq rfl rfl rfl rfl rfl rfl rfl rfl rfl)

theorem sjuMode_mild (prev new : Mode) : Mild s (sjuMode prev new s) := by
  have hj : ∀ j, Mild s { s with sju := j } := fun j => .of_eq rfl rfl rfl rfl rfl rfl rfl rfl rfl
  unfold sjuMode; split
  · refine Mild.trans ?_ (centre_mild _)
    split
    · exact ((hj _).trans (t := { s with sju := _ }) (.of_eq rfl rfl rfl rfl rfl rfl rfl rfl rfl)).trans (placeClaim_mild _ _ _)
    · exact hj _
  · exact setCentring_mild _ _

/-! LKU -/

theorem formHLane_mild (l : Lku) : Mild s (formHLane l s) := by
  unfold formHLane; split
  · exact .of_eq rfl rfl rfl rfl rfl rfl rfl rfl rfl
  · exact Mild.after (rewriteChannels_mild _ _ _) (.of_eq rfl rfl rfl rfl rfl rfl rfl rfl rfl)

theorem setKneel_mild (k : KneelState) : Mild s (setKneel k s) :=
  ⟨⟨rfl, rfl, rfl, rfl, rfl, rfl, rfl, rfl, rfl, rfl, rfl, rfl, id, fun _ => id⟩, [_], rfl, rfl⟩

theorem judgeKneel_mild (k : Corner) : Mild s (judgeKneel k s) := by
  unfold judgeKneel; split
  · exact .refl s
  · exact setKneel_mild _ _

theorem lkuChannel_mild (k : Corner) (h : Option Source) (sp : Setpoint) : Mild s (lkuChannel k h sp s) :=
  Mild.after (judgeKneel_mild _ _) (.of_eq rfl rfl rfl rfl rfl rfl rfl rfl rfl)

/-! ICT -/

theorem judgeEntry_mild (e : Entry) : Mild s (judgeEntry e s) := by
  have hi : ∀ i, Mild s { s with ict := i } := fun i => .of_eq rfl rfl rfl rfl rfl rfl rfl rfl rfl
  unfold judgeEntry; split
  · exact .refl s
  · split
    · exact (hi _).trans (placeClaims_mild _ _ _)
    · exact (hi _).trans (withdrawClaims_mild _ _ _)

theorem judgeEntries_mild (es : List Entry) : Mild s (judgeEntries es s) :=
  judgeEntries_induction (Mild s) (fun _ _ h => h.andThen fun u => judgeEntry_mild u _) es s (.refl s)

theorem ictWith_mild (i : Ict) (q : Watched) : Mild s (judgeWatching q { s with ict := i }) :=
  Mild.after (judgeEntries_mild _ _) (.of_eq rfl rfl rfl rfl rfl rfl rfl rfl rfl)

theorem ictSpeed_mild (v : Int) (k : Bool) : Mild s (ictSpeed v k s) := ictWith_mild _ _ _

theorem ictArtic_mild (a : Int) : Mild s (ictArtic a s) := ictWith_mild _ _ _

theorem ictDemand_mild (d : Int) : Mild s (ictDemand d s) := ictWith_mild _ _ _

theorem ictAtRest_mild (b : Bool) : Mild s (ictAtRest b s) := ictWith_mild _ _ _

theorem ictKneel_mild (k : KneelState) : Mild s (ictKneel k s) := ictWith_mild _ _ _

theorem ictEmerg_mild (b : Bool) : Mild s (ictEmerg b s) := ictWith_mild _ _ _

theorem ictDoors_mild (d : PerDoor Bool) : Mild s (ictDoors d s) := ictWith_mild _ _ _

theorem ictMode_mild (m : Mode) : Mild s (ictMode m s) :=
  Mild.after (judgeEntries_mild _ _) (.of_eq rfl rfl rfl rfl rfl rfl rfl rfl rfl)

/-! MRU, DSV -/

theorem setAtRest_mild (b : Bool) : Mild s (setAtRest b s) := by
  unfold setAtRest; split
  · exact .refl s
  · exact ⟨⟨rfl, rfl, rfl, rfl, rfl, rfl, rfl, rfl, rfl, rfl, rfl, rfl, id, fun _ => id⟩, [_], rfl, rfl⟩

theorem drawFree_mild : Mild s (drawFree s) := .of_eq rfl rfl rfl rfl rfl rfl rfl rfl rfl

theorem formSpeed_mild (m : Mru) : Mild s (formSpeed m s) := by
  have h : Mild s (announce (speedEvents m) { s with mru := mruFormed m }) :=
    Mild.after (announce_mild _ _ (by unfold speedEvents; split <;> rfl)) (.of_eq rfl rfl rfl rfl rfl rfl rfl rfl rfl)
  unfold formSpeed; split
  · exact Mild.after (detect_mild _ _ _ _ _) (h.trans (drawFree_mild _))
  · exact h

theorem judgeRest_mild : Mild s (judgeRest s) :=
  Mild.after (setAtRest_mild _ _) (.of_eq rfl rfl rfl rfl rfl rfl rfl rfl rfl)

theorem mruRecompute_mild (m : Mru) : Mild s (mruRecompute m s) :=
  (formSpeed_mild s m).trans (judgeRest_mild _)

theorem dsvChannel_mild (n : Door) (sp : Setpoint) : Mild s (dsvChannel n sp s) := by
  unfold dsvChannel; simp only; split <;>
    exact ⟨⟨rfl, rfl, rfl, rfl, rfl, rfl, rfl, rfl, rfl, rfl, rfl, rfl, id, fun _ => id⟩, [], by simp, rfl⟩

theorem dsvKneel_mild (k : KneelState) : Mild s (dsvKneel k s) := by
  unfold dsvKneel; split
  · exact .refl s
  · exact ⟨⟨rfl, rfl, rfl, rfl, rfl, rfl, rfl, rfl, rfl, rfl, rfl, rfl, id, fun _ => id⟩, [], by simp, rfl⟩

/-! FLC, MC -/

theorem raiseTestFail_mild : Mild s (raiseTestFail s) := by
  unfold raiseTestFail; split
  · exact detect_mild _ _ _ _ _
  · exact .refl s

theorem withFlc_mild (f : Flc) (h : f.nodes = s.flc.nodes) : Mild s (withFlc f s) := .of_eq rfl rfl rfl rfl rfl rfl h rfl rfl

theorem offer_mild (n : Notice) : Mild s (offer n s) := .of_eq rfl rfl rfl rfl rfl rfl rfl rfl rfl

theorem finishTest_mild (r : TestResult) : Mild s (finishTest r s) :=
  Mild.after (offer_mild _ _) (Mild.after (raiseTestFail_mild _) (withFlc_mild _ _ rfl))

theorem flcMode_mild (prev new : Mode) : Mild s (flcMode prev new s) := by
  unfold flcMode
  split_ifs
  · exact withFlc_mild _ _ rfl
  · exact withFlc_mild _ _ rfl
  · exact withFlc_mild _ _ rfl
  · unfold flcLeaveService; split_ifs
    · exact withFlc_mild _ _ rfl
    · exact finishTest_mild _ _
    · exact .refl s
  · exact .refl s

theorem mcMode_mild (new : Mode) : Mild s (mcMode new s) := by
  unfold mcMode; split
  · exact placeClaims_mild _ _ _
  · exact .refl s

theorem mcAtRest_mild (b : Bool) : Mild s (mcAtRest b s) := by
  have h : Mild s { s with mc := { s.mc with atRest := b } } := .of_eq rfl rfl rfl rfl rfl rfl rfl rfl rfl
  unfold mcAtRest; simp only; split_ifs
  · exact h.trans (withdrawClaims_mild _ _ _)
  · exact h.trans (placeClaims_mild _ _ _)
  · exact h

theorem mruStandby_mild : Mild s (mruStandby s) := .of_eq rfl rfl rfl rfl rfl rfl rfl rfl rfl

theorem lkuAtRest_mild (b : Bool) : Mild s (lkuAtRest b s) := .of_eq rfl rfl rfl rfl rfl rfl rfl rfl rfl

/-- MC's copies take a value. -/
theorem mcWith_mild (m : Mc) (hs : m.store = s.mc.store) (hl : m.locked = s.mc.locked)
    (hr : m.ready = s.mc.ready) :
    Mild s { s with mc := m } := .of_eq rfl hs hl rfl rfl rfl rfl hr rfl

/-! Announcements -/

theorem takeChannel_mild (c : Channel) (h : Option Source) (sp : Setpoint) : Mild s (takeChannel c h sp s) := by
  unfold takeChannel; split
  · exact .of_eq rfl rfl rfl rfl rfl rfl rfl rfl rfl
  · exact lkuChannel_mild _ _ _ _
  · exact dsvChannel_mild _ _ _
  · exact .refl s

theorem takeNode_mild (n : Node) (st : NodeState) : Mild s (takeNode n st s) := by
  unfold takeNode; split
  · exact (bauNode_mild _ _ _).trans (mruRecompute_mild _ _)
  · exact setCentring_mild _ _
  · exact .refl s
  · exact .of_eq rfl rfl rfl rfl rfl rfl rfl rfl rfl

/-- What a mode change leaves after LV has taken it. -/
theorem afterLv_mild (prev new : Mode) (t : State) :
    Mild t (mcMode new (ictMode new (lkuMode new (sjuMode prev new (bauMode prev new
      (if new = .standby then mruStandby (flcMode prev new t) else flcMode prev new t)))))) := by
  refine (((((Mild.trans (flcMode_mild t prev new) ?_).trans (bauMode_mild _ _ _)).trans (sjuMode_mild _ _ _)).trans
    (formHLane_mild _ _)).trans (ictMode_mild _ _)).trans (mcMode_mild _ _)
  split
  · exact mruStandby_mild _
  · exact .refl _

/-- LV leaves a mode change alone unless it goes to STANDBY or to RUN. -/
theorem lvMode_calm (prev new : Mode) (h : new = .degraded ∨ new = .safeStop) : lvMode prev new s = s := by
  rcases h with rfl | rfl <;> simp [lvMode]

theorem beforeLv_mild (new : Mode) : Mild s (if clearsLists new then clearLists s else s) := by
  split
  · exact clearLists_mild s
  · exact .refl s

theorem takeMode_mild (prev new : Mode) (h : new = .degraded ∨ new = .safeStop) : Mild s (takeMode prev new s) := by
  have := afterLv_mild prev new (lvMode prev new (if clearsLists new then clearLists s else s))
  rw [lvMode_calm _ prev new h] at this
  unfold takeMode
  rw [lvMode_calm _ prev new h]
  exact (beforeLv_mild s new).trans this

/-- The taking of a calm announcement. -/
theorem handle_mild (e : Ev) (h : calm e = true) : Mild s (handle e s) := by
  cases e with
  | channel c h sp _ => exact takeChannel_mild _ _ _ _
  | demand d => exact (bauDemand_mild _ _).trans (ictDemand_mild _ _)
  | emerg b => exact (bauEmerg_mild _ _).trans (ictEmerg_mild _ _)
  | angle a => exact runSteer_mild _ _
  | steerMode m => exact runSteer_mild _ _
  | levelMode m => exact formHLane_mild _ _
  | placeLane => exact placeClaims_mild _ _ _
  | placeEmerg => exact placeClaims_mild _ _ _
  | withdrawEmerg => exact withdrawClaims_mild _ _ _
  | speed v k => exact ((ictSpeed_mild s v k).trans (runSteer_mild _ _)).trans (formHLane_mild _ _)
  | atRest b =>
    exact ((((bauAtRest_mild s b).trans (ictAtRest_mild _ b)).trans (sjuAtRest_mild _ b)).trans
      (lkuAtRest_mild _ b)).trans (mcAtRest_mild _ b)
  | theta th r v smp => exact sjuTheta_mild _ _ _ _ _
  | artic a => exact ictArtic_mild _ _
  | node n st => exact takeNode_mild _ _ _
  | kneel k =>
    exact (((bauFloor_mild s s.bau.doors k).trans (ictKneel_mild _ k)).trans (dsvKneel_mild _ k)).trans
      (mcWith_mild _ _ rfl rfl rfl)
  | doors d =>
    exact ((bauFloor_mild s d s.bau.kneel).trans (ictDoors_mild _ d)).trans (mcWith_mild _ _ rfl rfl rfl)
  | mode prev new => exact takeMode_mild _ _ _ (by simpa [calm] using h)
  | followMark b => exact setCentring_mild _ _

/-- The link goes on. -/
theorem pollNext_mild : Mild s (pollNext s) := by
  unfold pollNext; split <;> exact .of_eq rfl rfl rfl rfl rfl rfl rfl rfl rfl

theorem advance_mild : Mild s (advance s) := by
  unfold advance; split
  · exact .refl s
  · exact .refl s
  · split
    · split
      · unfold endRound; split
        · exact Mild.after (pollNext_mild _) (withFlc_mild _ _ rfl)
        · exact withFlc_mild _ _ rfl
      · exact pollNext_mild _
    · exact .refl s
  · exact withFlc_mild _ _ rfl
  · exact Mild.after (pollNext_mild _) (withFlc_mild _ _ rfl)
  · exact withFlc_mild _ _ rfl

/-- What waits to be taken is calm. -/
def CalmState (s : State) : Prop := s.inFlight.all calm = true

/-- Announcements taken from a calm state. -/
theorem settle_calm (n : Nat) (h : CalmState s) : Same s (settle n s) ∧ CalmState (settle n s) := by
  refine settle_induction (fun u => Same s u ∧ CalmState u) ?_ n s ⟨.refl s, h⟩
  rintro e rest u hu ⟨hm, hc⟩
  have hce : calm e = true ∧ rest.all calm = true := by
    unfold CalmState at hc; rw [hu] at hc; simpa using hc
  have hv := handle_mild { u with inFlight := rest } e hce.1
  obtain ⟨evs, hevs, cevs⟩ := hv.added
  have h0 : Same u { u with inFlight := rest } := ⟨rfl, rfl, rfl, rfl, rfl, rfl, rfl, rfl, rfl, rfl, rfl, rfl, id, fun _ => id⟩
  refine ⟨(hm.trans h0).trans hv.same, ?_⟩
  unfold CalmState; rw [hevs, List.all_append, hce.2, cevs]; rfl

/-- A step completed from a calm state. -/
theorem complete_calm (h : CalmState s) : Same s (complete s) :=
  (settle_calm s settleLimit h).1.trans (advance_mild _).same

end Sys2Proof.Machine
end

