-- ==== Sys2Proof/Laws/Blocks.lean ====
section
/-! SUPPORT. What the blocks' own operations leave: BAU's recompute, MRU's speed, the clearing of the lists, and the poll
that starts a round. -/

namespace Sys2Proof.Machine

variable (s : State)

/-! BAU -/

@[simp] theorem raiseSaturated_bau (was : PerAxle Bool) (x : Axle) : (raiseSaturated was x s).bau = s.bau := by
  unfold raiseSaturated; split
  · rw [detect_frame]
  · rfl

@[simp] theorem raiseSaturated_lku (was : PerAxle Bool) (x : Axle) : (raiseSaturated was x s).lku = s.lku := by
  unfold raiseSaturated; split
  · rw [detect_frame]
  · rfl

/-- A flag that does not set raises nothing (R81). -/
theorem raiseSaturated_of_not (was : PerAxle Bool) (x : Axle)
    (h : was.get x = true ∨ s.bau.saturated.get x = false) : raiseSaturated was x s = s := by
  unfold raiseSaturated; rw [if_neg]; rcases h with h | h <;> simp [h]

/-- A recompute leaves BAU's inputs alone and forms the saturation flags anew (R81, R88). -/
theorem bauRecompute_bau : (bauRecompute s).bau = { s.bau with saturated := saturationNow s.store s.bau } := by
  have h : ∀ (t : State) c f, (rewriteChannel c f t).bau = t.bau := fun _ _ _ => rfl
  simp [bauRecompute, brakeRewrite, h, judgeSaturation]

@[simp] theorem bauRecompute_lku : (bauRecompute s).lku = s.lku := by
  have h : ∀ (t : State) c f, (rewriteChannel c f t).lku = t.lku := fun _ _ _ => rfl
  simp [bauRecompute, brakeRewrite, h, judgeSaturation]

@[simp] theorem bauPressure_lku (k : Corner) (p : Int) (g : Bool) : (bauPressure k p g s).lku = s.lku := by
  unfold bauPressure bauLoad; split
  · rfl
  · rw [bauRecompute_lku]

/-! MRU -/

/-- The speed is formed with MRU's record as R61 and R62 give it, whether or not SPEED_UNKNOWN is raised. -/
@[simp] theorem formSpeed_mru (m : Mru) : (formSpeed m s).mru = mruFormed m := by
  unfold formSpeed; split
  · rw [detect_frame]; rfl
  · rfl

@[simp] theorem formSpeed_store (m : Mru) : (formSpeed m s).store = s.store := (formSpeed_mild s m).same.store

/-! CAU -/

/-- What the clearing of every list announces: each channel that had a holder, or whose effective setpoint was not the
rest value (R22). -/
theorem mem_clearEvents (e : Ev) : e ∈ clearEvents s ↔ ∃ c, (s.holder c ≠ none ∨ s.effective c ≠ s.store.rest c) ∧
    e = .channel c none (s.store.rest c) (decide (s.holder c ≠ none)) := by
  have hall : ∀ c : Channel, c ∈ Channel.all := by
    rintro (x | _ | _ | k | n)
    · cases x <;> decide
    · decide
    · decide
    · cases k <;> decide
    · cases n <;> decide
  have hev : ∀ c, channelEvents s.store c (s.cau.get c).claims [] =
      if s.holder c ≠ none ∨ s.effective c ≠ s.store.rest c
      then [.channel c none (s.store.rest c) (decide (s.holder c ≠ none))] else [] := by
    intro c
    show (if s.holder c = none ∧ s.effective c = s.store.rest c then []
      else [Ev.channel c none (s.store.rest c) (decide (s.holder c ≠ none))]) = _
    by_cases h1 : s.holder c = none <;> by_cases h2 : s.effective c = s.store.rest c <;> simp [h1, h2]
  simp only [clearEvents, List.mem_flatMap, hev]
  constructor
  · rintro ⟨c, -, h⟩
    split at h
    · exact ⟨c, ‹_›, by simpa using h⟩
    · cases h
  · rintro ⟨c, h, rfl⟩
    exact ⟨c, hall c, by rw [if_pos h]; simp⟩

/-! FLC, MC -/

/-- A round's first node is BRK_A (R43). -/
theorem fittedNodes_head (st : Store) : ∃ rest, st.fittedNodes = .brk .a :: rest := ⟨_, rfl⟩

/-- A poll of a node other than STR_C leaves SJU alone. -/
theorem pollNext_of_ne_str (n : Node) (rest : List Node) (h : s.flc.left = n :: rest) (hn : n ≠ .str) :
    pollNext s = { s with flc := { s.flc with left := rest, txn := some (pollTxn s n) } } := by
  unfold pollNext; rw [h]; simp [sjuPolled, hn]

/-- MC's entry to SAFE_STOP waits just while its announcement stands in the list (R178). -/
theorem entryWaits_iff : entryWaits s = true ↔ ∃ m, Ev.mode m .safeStop ∈ s.inFlight := by
  unfold entryWaits
  rw [List.any_eq_true]
  constructor
  · rintro ⟨e, he, h⟩
    split at h
    · exact ⟨_, he⟩
    · cases h
  · rintro ⟨m, hm⟩; exact ⟨_, hm, rfl⟩

end Sys2Proof.Machine
end

