-- ==== Sys2Proof/Laws/Lists.lean ====
section
/-! SUPPORT. The list operations keep a claim list in order (R9, R10, R16); the queue operations keep a notice queue
within its bounds (R192). -/

namespace Sys2Proof.Machine

open Sys2Proof.Safety

/-! Claim lists -/

theorem before_level {x y : Claim} (h : Before x y) : y.level ≤ x.level := by
  unfold Before at h; omega

theorem source_rePlace (src : Source) (sp : Setpoint) (l : List Claim) :
    (rePlace src sp l).map Claim.source = l.map Claim.source := by
  induction l with
  | nil => rfl
  | cons x l ih =>
    simp only [rePlace, List.map_cons] at ih ⊢
    rw [ih]; split <;> rfl

/-- A change that leaves level, stamp, source, timer and mark alone keeps a list in order. -/
theorem listOk_map (f : Claim → Claim) (hf : ∀ x, (f x).level = x.level ∧ (f x).stamp = x.stamp ∧
    (f x).source = x.source ∧ (f x).hasHeld = x.hasHeld ∧ (x.hold = .absent → (f x).hold = .absent))
    (cl : ClaimList) (h : ListOk cl) (n : Nat) (hn : cl.counter ≤ n) : ListOk ⟨cl.claims.map f, n⟩ := by
  obtain ⟨h1, h2, h3, h4⟩ := h
  refine ⟨?_, ?_, ?_, ?_⟩
  · rw [List.pairwise_map]
    refine h1.imp ?_
    intro x y hxy
    unfold Before at hxy ⊢
    rw [(hf x).1, (hf y).1, (hf x).2.1, (hf y).2.1]; exact hxy
  · rw [List.map_map]
    have : (Claim.source ∘ f) = Claim.source := funext fun x => (hf x).2.2.1
    rw [this]; exact h2
  · intro x hx
    obtain ⟨y, hy, rfl⟩ := List.mem_map.1 hx
    rw [(hf y).2.1]; exact (h3 y hy).trans hn
  · cases hcl : cl.claims with
    | nil => trivial
    | cons x l =>
      rw [hcl] at h4
      exact ⟨(hf x).2.2.2.1.trans h4.1, (hf x).2.2.2.2 h4.2⟩

theorem listOk_rewriteList (f : Source → Option Setpoint) (cl : ClaimList) (h : ListOk cl) :
    ListOk (rewriteList f cl) := by
  refine listOk_map _ (fun x => ?_) cl h cl.counter le_rfl
  split <;> simp

theorem listOk_rePlace (src : Source) (sp : Setpoint) (cl : ClaimList) (h : ListOk cl) :
    ListOk ⟨rePlace src sp cl.claims, cl.counter + 1⟩ := by
  refine listOk_map _ (fun x => ?_) cl h _ (Nat.le_succ _)
  split <;> simp

theorem mem_insertBelow (new : Claim) (l : List Claim) (y : Claim) :
    y ∈ insertBelow new l ↔ y = new ∨ y ∈ l := by
  induction l with
  | nil => simp [insertBelow]
  | cons x l ih =>
    unfold insertBelow; split
    · rw [List.mem_cons, ih, List.mem_cons]; tauto
    · rw [List.mem_cons]

theorem pairwise_insertBelow (new : Claim) (l : List Claim) (h : l.Pairwise Before)
    (hs : ∀ x ∈ l, x.stamp < new.stamp) : (insertBelow new l).Pairwise Before := by
  induction l with
  | nil => simp [insertBelow]
  | cons x l ih =>
    rw [List.pairwise_cons] at h
    unfold insertBelow; split
    · rename_i hl
      refine List.pairwise_cons.2 ⟨?_, ih h.2 fun y hy => hs y (List.mem_cons_of_mem _ hy)⟩
      intro y hy
      rcases (mem_insertBelow _ _ _).1 hy with rfl | hy
      · have := hs x List.mem_cons_self
        unfold Before; omega
      · exact h.1 y hy
    · rename_i hl
      refine List.pairwise_cons.2 ⟨?_, List.pairwise_cons.2 h⟩
      intro y hy
      rcases List.mem_cons.1 hy with rfl | hy
      · exact .inl (by omega)
      · have := before_level (h.1 y hy); exact .inl (by omega)

theorem nodup_insertBelow (new : Claim) (l : List Claim) (h : (l.map Claim.source).Nodup)
    (hn : ∀ x ∈ l, x.source ≠ new.source) : ((insertBelow new l).map Claim.source).Nodup := by
  induction l with
  | nil => simp [insertBelow]
  | cons x l ih =>
    rw [List.map_cons, List.nodup_cons] at h
    unfold insertBelow; split
    · rw [List.map_cons, List.nodup_cons]
      refine ⟨?_, ih h.2 fun y hy => hn y (List.mem_cons_of_mem _ hy)⟩
      intro hm
      obtain ⟨y, hy, hxy⟩ := List.mem_map.1 hm
      rcases (mem_insertBelow _ _ _).1 hy with rfl | hy
      · exact hn x List.mem_cons_self hxy.symm
      · exact h.1 (hxy ▸ List.mem_map_of_mem hy)
    · rw [List.map_cons, List.nodup_cons, List.map_cons, List.nodup_cons]
      refine ⟨?_, h⟩
      intro hm
      rcases List.mem_cons.1 hm with hx | hm
      · exact hn x List.mem_cons_self hx.symm
      · obtain ⟨y, hy, hxy⟩ := List.mem_map.1 hm
        exact hn y (List.mem_cons_of_mem _ hy) hxy

theorem pairwise_head {x x' : Claim} {l : List Claim} (hl : x'.level = x.level) (hs : x'.stamp = x.stamp)
    (h : (x :: l).Pairwise Before) : (x' :: l).Pairwise Before := by
  rw [List.pairwise_cons] at h ⊢
  refine ⟨fun y hy => ?_, h.2⟩
  have := h.1 y hy
  unfold Before at this ⊢
  rw [hl, hs]; exact this

theorem listOk_insertRecord (st : Store) (new : Claim) (l : List Claim) (n : Nat) (h : ListOk ⟨l, n⟩)
    (hs : new.stamp = n + 1) (hn : ∀ x ∈ l, x.source ≠ new.source) : ListOk ⟨insertRecord st new l, n + 1⟩ := by
  obtain ⟨h1, h2, h3, h4⟩ := h
  have hlt : ∀ x ∈ l, x.stamp < new.stamp := fun x hx => by have := h3 x hx; simp only at this; omega
  cases l with
  | nil => exact ⟨by simp [insertRecord], by simp [insertRecord], by simp [insertRecord, promote, hs], rfl, rfl⟩
  | cons x l =>
    by_cases hle : new.level ≤ x.level
    · rw [insertRecord, if_pos hle]
      have hp := pairwise_insertBelow new (x :: l) h1 hlt
      have hd := nodup_insertBelow new (x :: l) h2 hn
      unfold insertBelow at hp hd
      rw [if_pos hle] at hp hd
      refine ⟨hp, hd, ?_, h4⟩
      intro y hy
      rcases List.mem_cons.1 hy with rfl | hy
      · have := hlt y List.mem_cons_self; simp only; omega
      · rcases (mem_insertBelow _ _ _).1 hy with rfl | hy
        · simp only; omega
        · have := hlt y (List.mem_cons_of_mem _ hy); simp only; omega
    · rw [insertRecord, if_neg hle]
      have hp : (displace st x :: l).Pairwise Before := pairwise_head (x := x) rfl rfl h1
      refine ⟨?_, ?_, ?_, rfl, rfl⟩
      · refine List.pairwise_cons.2 ⟨?_, hp⟩
        intro y hy
        rcases List.mem_cons.1 hy with rfl | hy
        · refine .inl ?_; simp only [displace, promote]; omega
        · have := before_level ((List.pairwise_cons.1 h1).1 y hy)
          refine .inl ?_; simp only [promote]; omega
      · simp only [List.map_cons, List.nodup_cons] at h2 ⊢
        refine ⟨?_, h2⟩
        intro hm
        rcases List.mem_cons.1 hm with hx | hm
        · exact hn x List.mem_cons_self hx.symm
        · obtain ⟨y, hy, hxy⟩ := List.mem_map.1 hm
          exact hn y (List.mem_cons_of_mem _ hy) hxy
      · intro y hy
        rcases List.mem_cons.1 hy with rfl | hy
        · simp only [promote]; omega
        · rcases List.mem_cons.1 hy with rfl | hy
          · have := hlt x List.mem_cons_self; simp only [displace]; omega
          · have := hlt y (List.mem_cons_of_mem _ hy); simp only; omega

theorem source_renumber (n : Nat) (l : List Claim) : (renumber n l).map Claim.source = l.map Claim.source := by
  induction l generalizing n with
  | nil => rfl
  | cons x l ih => simp [renumber, ih]

theorem mem_renumber (n : Nat) (l : List Claim) (y : Claim) (h : y ∈ renumber n l) :
    n ≤ y.stamp ∧ y.stamp < n + l.length ∧ ∃ x ∈ l, y.level = x.level := by
  induction l generalizing n with
  | nil => simp [renumber] at h
  | cons x l ih =>
    unfold renumber at h
    rcases List.mem_cons.1 h with rfl | h
    · exact ⟨le_rfl, by simp, x, List.mem_cons_self, rfl⟩
    · obtain ⟨h1, h2, z, hz, h3⟩ := ih _ h
      exact ⟨by omega, by simp only [List.length_cons]; omega, z, List.mem_cons_of_mem _ hz, h3⟩

theorem pairwise_renumber (n : Nat) (l : List Claim) (h : l.Pairwise Before) : (renumber n l).Pairwise Before := by
  induction l generalizing n with
  | nil => simp [renumber]
  | cons x l ih =>
    rw [List.pairwise_cons] at h
    unfold renumber
    refine List.pairwise_cons.2 ⟨?_, ih _ h.2⟩
    intro y hy
    obtain ⟨h1, -, z, hz, h3⟩ := mem_renumber _ _ _ hy
    have := before_level (h.1 z hz)
    unfold Before; simp only; omega

theorem listOk_makeRoom (cl : ClaimList) (h : ListOk cl) : ListOk (makeRoom cl) := by
  unfold makeRoom; split
  · obtain ⟨h1, h2, -, h4⟩ := h
    refine ⟨pairwise_renumber _ _ h1, by rw [source_renumber]; exact h2, ?_, ?_⟩
    · intro x hx
      obtain ⟨-, h5, -⟩ := mem_renumber _ _ _ hx
      simp only; omega
    · cases hcl : cl.claims with
      | nil => trivial
      | cons x l => rw [hcl] at h4; exact h4
  · exact h

theorem hasRecord_false (src : Source) (l : List Claim) (h : hasRecord src l = false) : ∀ x ∈ l, x.source ≠ src := by
  simpa [hasRecord] using h

/-- An accepted placement keeps a list in order (R12, R13). -/
theorem listOk_placeList (st : Store) (src : Source) (sp : Setpoint) (cl : ClaimList) (h : ListOk cl) :
    ListOk (placeList st src sp cl) := by
  have hr := listOk_makeRoom cl h
  unfold placeList; simp only; split
  · exact listOk_rePlace src sp _ hr
  · rename_i hn
    exact listOk_insertRecord st _ _ _ hr rfl (hasRecord_false _ _ (by simpa using hn))

/-- A withdrawal keeps a list in order (R14, R16). -/
theorem listOk_withdrawList (src : Source) (cl : ClaimList) (h : ListOk cl) : ListOk (withdrawList src cl) := by
  obtain ⟨h1, h2, h3, h4⟩ := h
  unfold withdrawList
  split
  · exact ⟨h1, h2, h3, h4⟩
  · rename_i x l hcl
    rw [hcl] at h1 h2 h3 h4
    have hsub : (without src l).Sublist l := List.filter_sublist
    rw [List.pairwise_cons] at h1
    rw [List.map_cons, List.nodup_cons] at h2
    split
    · have hp := h1.2.sublist hsub
      have hd := h2.2.sublist (hsub.map Claim.source)
      have hst : ∀ y ∈ without src l, y.stamp ≤ cl.counter := fun y hy => h3 y (List.mem_cons_of_mem _ (hsub.subset hy))
      cases hw : without src l with
      | nil => exact ⟨by simp [promoteHead], by simp [promoteHead], by simp [promoteHead], trivial⟩
      | cons y m =>
        rw [hw] at hp hd hst
        refine ⟨pairwise_head (x := y) rfl rfl hp, hd, ?_, rfl, rfl⟩
        intro z hz
        rcases List.mem_cons.1 hz with rfl | hz
        · exact hst y List.mem_cons_self
        · exact hst z (List.mem_cons_of_mem _ hz)
    · refine ⟨List.pairwise_cons.2 ⟨fun y hy => h1.1 y (hsub.subset hy), h1.2.sublist hsub⟩, ?_, ?_, h4⟩
      · rw [List.map_cons, List.nodup_cons]
        exact ⟨fun hm => h2.1 ((hsub.map _).subset hm), h2.2.sublist (hsub.map Claim.source)⟩
      · intro y hy
        rcases List.mem_cons.1 hy with rfl | hy
        · exact h3 y List.mem_cons_self
        · exact h3 y (List.mem_cons_of_mem _ (hsub.subset hy))

/-- A tick keeps a list in order. -/
theorem listOk_tickList (cl : ClaimList) (h : ListOk cl) : ListOk (tickList cl) := by
  refine listOk_map (fun x => { x with hold := tickHold x.hold }) (fun x => ⟨rfl, rfl, rfl, rfl, ?_⟩) cl h _ le_rfl
  intro hx; simp [hx, tickHold]

/-! Sources and setpoints -/

/-- A record's source and setpoint. -/
def Claim.asks (x : Claim) : Source × Setpoint := (x.source, x.setpoint)

/-- A withdrawal leaves every record that stays its source and setpoint (R14, R16). -/
theorem asks_withdrawList (src : Source) (cl : ClaimList) (y : Claim) (h : y ∈ (withdrawList src cl).claims) :
    ∃ x ∈ cl.claims, x.asks = y.asks := by
  unfold withdrawList at h
  split at h
  · rename_i hc; rw [hc] at h; cases h
  · rename_i x l hc
    rw [hc]
    split at h
    · have h : y ∈ promoteHead (without src l) := h
      cases hw : without src l with
      | nil => rw [hw] at h; cases h
      | cons z m =>
        rw [hw] at h
        have hz : z ∈ l := List.mem_of_mem_filter (hw ▸ List.mem_cons_self : z ∈ without src l)
        rcases List.mem_cons.1 h with rfl | h
        · exact ⟨z, List.mem_cons_of_mem _ hz, rfl⟩
        · exact ⟨y, List.mem_cons_of_mem _ (List.mem_of_mem_filter (hw ▸ List.mem_cons_of_mem _ h : y ∈ without src l)), rfl⟩
    · rcases List.mem_cons.1 h with rfl | h
      · exact ⟨y, List.mem_cons_self, rfl⟩
      · exact ⟨y, List.mem_cons_of_mem _ (List.mem_of_mem_filter h), rfl⟩

/-- A rewrite gives each record the setpoint handed over for its source, if any (R19). -/
theorem asks_rewriteList (f : Source → Option Setpoint) (cl : ClaimList) (y : Claim) (h : y ∈ (rewriteList f cl).claims) :
    ∃ x ∈ cl.claims, y.asks = (x.source, (f x.source).getD x.setpoint) := by
  obtain ⟨x, hx, rfl⟩ := List.mem_map.1 h
  refine ⟨x, hx, ?_⟩
  cases hf : f x.source <;> simp [Claim.asks]

/-- Renumbering leaves sources and setpoints alone (R8). -/
theorem asks_renumber (l : List Claim) : ∀ (n : Nat) (y : Claim), y ∈ renumber n l → ∃ x ∈ l, x.asks = y.asks := by
  induction l with
  | nil => exact fun _ _ h => absurd h (by simp [renumber])
  | cons x l ih =>
    intro n y h
    rcases List.mem_cons.1 h with rfl | h
    · exact ⟨x, List.mem_cons_self, rfl⟩
    · obtain ⟨z, hz, e⟩ := ih _ _ h; exact ⟨z, List.mem_cons_of_mem _ hz, e⟩

/-- A placement gives its source's record its setpoint and leaves the others theirs (R12, R13). -/
theorem asks_placeList (st : Store) (src : Source) (sp : Setpoint) (cl : ClaimList) (y : Claim)
    (h : y ∈ (placeList st src sp cl).claims) : y.asks = (src, sp) ∨ ∃ x ∈ cl.claims, x.asks = y.asks := by
  have hr : ∀ z ∈ (makeRoom cl).claims, ∃ x ∈ cl.claims, x.asks = z.asks := by
    intro z hz
    unfold makeRoom at hz; split at hz
    · exact asks_renumber _ _ _ hz
    · exact ⟨z, hz, rfl⟩
  simp only [placeList] at h
  split at h
  · obtain ⟨x, hx, rfl⟩ := List.mem_map.1 h
    split
    · rename_i hs; exact .inl (by simp [Claim.asks, hs])
    · obtain ⟨z, hz, e⟩ := hr x hx; exact .inr ⟨z, hz, e⟩
  · cases hcl : (makeRoom cl).claims with
    | nil =>
      rw [hcl] at h
      rcases List.mem_cons.1 h with rfl | h
      · exact .inl rfl
      · cases h
    | cons x l =>
      rw [hcl] at h hr
      unfold insertRecord at h
      split at h
      · rename_i he; cases he
      · rename_i z m he
        cases he
        split at h
        · rcases List.mem_cons.1 h with rfl | h
          · exact .inr (hr _ List.mem_cons_self)
          · rcases (mem_insertBelow _ _ _).1 h with rfl | h
            · exact .inl rfl
            · exact .inr (hr _ (List.mem_cons_of_mem _ h))
        · rcases List.mem_cons.1 h with rfl | h
          · exact .inl rfl
          · rcases List.mem_cons.1 h with rfl | h
            · obtain ⟨z, hz, e⟩ := hr _ List.mem_cons_self; exact .inr ⟨z, hz, e⟩
            · exact .inr (hr _ (List.mem_cons_of_mem _ h))

/-! Notice queues -/

theorem kindNo_merge (m n : Notice) (h : m.kindNo = n.kindNo) : (m.merge n).kindNo = n.kindNo := by
  cases m <;> cases n <;> simp_all [Notice.merge, Notice.kindNo]

theorem kindNo_mergeInto (n : Notice) (q : List Notice) :
    (mergeInto n q).map Notice.kindNo = q.map Notice.kindNo := by
  rw [mergeInto, List.map_map]
  refine List.map_congr_left fun m _ => ?_
  simp only [Function.comp]
  split
  · rename_i h
    have h' : m.kindNo = n.kindNo := by simpa using h
    rw [kindNo_merge m n h', h']
  · rfl

/-- An offered notice keeps the queue within its bounds (R192). -/
theorem queueOk_offerPort (n : Notice) (p : PortState) (h : QueueOk p) : QueueOk (offerPort n p) := by
  obtain ⟨h1, h2⟩ := h
  unfold offerPort
  split
  · exact ⟨by simpa [mergeInto] using h1, by simpa [kindNo_mergeInto] using h2⟩
  · rename_i hk
    split
    · refine ⟨by simp; omega, ?_⟩
      simp only [List.map_append, List.map_cons, List.map_nil]
      refine List.nodup_append.2 ⟨h2, by simp, ?_⟩
      intro a ha b hb
      obtain ⟨m, hm, rfl⟩ := List.mem_map.1 ha
      have hb' : b = n.kindNo := by simpa using hb
      rintro rfl
      exact hk (by simp only [kindQueued, List.any_eq_true]; exact ⟨m, hm, by simpa using hb'⟩)
    · exact ⟨h1, h2⟩

theorem queueOk_popNotice (p : PortState) (h : QueueOk p) : QueueOk (popNotice p) := by
  obtain ⟨h1, h2⟩ := h
  refine ⟨?_, ?_⟩
  · simp only [popNotice, List.length_tail]; omega
  · simp only [popNotice, List.map_tail]
    exact h2.sublist (List.tail_sublist _)

/-- Notices offered keep every queue within its bounds. -/
theorem queueOk_offerMany (st : Store) (ns : List Notice) :
    ∀ m, (∀ p, QueueOk (m.get p)) → ∀ p, QueueOk ((offerMany st ns m).get p) := by
  induction ns with
  | nil => exact fun m h => h
  | cons n ns ih =>
    intro m h
    refine ih _ fun p => ?_
    simp only [offerPorts, PerPort_get_of]
    split
    · exact queueOk_offerPort n _ (h p)
    · exact h p

end Sys2Proof.Machine
end

