-- ==== Sys2Proof/Laws/Moves.lean ====
section
/-! SUPPORT. What the blocks' operations can do to the claims, to BAU's copies of door security and kneel state, and to
what announces them: each operation is a chain of a few moves, and a law that every move keeps is kept by all of them. -/

namespace Sys2Proof.Machine

/-- An announcement that brings BAU neither a set of UNSECURED doors nor a kneel state. -/
def plainEv : Ev → Bool
  | .doors _ => false
  | .kneel _ => false
  | _ => true

/-- From `s` to `t` no claim, no mode, no store, not its lock and nothing that decides BAU's floor changes, and what is
announced is plain. -/
structure Aside (s t : State) : Prop where
  store : t.store = s.store
  mode : t.mode = s.mode
  locked : t.mc.locked = s.mc.locked
  cau : t.cau = s.cau
  given : t.bau.given = s.bau.given
  floor : t.bau.floor = s.bau.floor
  doors : t.bau.doors = s.bau.doors
  kneelCopy : t.bau.kneel = s.bau.kneel
  unsecured : t.dsv.unsecured = s.dsv.unsecured
  kneel : t.lku.kneel = s.lku.kneel
  added : ∃ evs, t.inFlight = s.inFlight ++ evs ∧ evs.all plainEv = true

/-- A programmable entry places only while the store is locked (R147). -/
def LockedFor (s : State) (src : Source) : Prop := ∀ k, src = .entry (.prog k) → s.mc.locked = true

/-- A chain of the moves that blocks make. -/
inductive Moves : State → State → Prop where
  | refl (s : State) : Moves s s
  | trans {s t u : State} : Moves s t → Moves t u → Moves s u
  | aside {s t : State} : Aside s t → Moves s t
  | place (src : Source) (c : Channel) (s : State) : LockedFor s src → Moves s (placeClaim src c s)
  | withdraw (src : Source) (c : Channel) (s : State) : Moves s (withdrawClaim src c s)
  | steer (j : Sju) (s : State) : Moves s (runSteer j s)
  | level (h : Int) (k : Corner) (s : State) :
      Moves s (rewriteChannel (.lvl k) (levelRewrite s.store h (.lvl k)) s)
  | brake (b : Bau) (s : State) : b.given = s.bau.given → b.floor = s.bau.floor → b.doors = s.bau.doors →
      b.kneel = s.bau.kneel → Moves s (bauRecompute { s with bau := b })
  | detected (k : FaultKind) (src : FaultSource) (ch : Option Channel) (item : List Byte) (s : State) :
      Moves s (detect k src ch item s)
  | kneeled (k : KneelState) (s : State) : Moves s (setKneel k s)
  | cleared (s : State) : Moves s (clearLists s)

/-- A change that touches none of the fields and announces nothing. -/
theorem Moves.of_eq {s t : State} (h1 : t.store = s.store) (h2 : t.mode = s.mode)
    (hl : t.mc.locked = s.mc.locked) (h3 : t.cau = s.cau) (h4 : t.bau = s.bau)
    (h5 : t.dsv.unsecured = s.dsv.unsecured) (h6 : t.lku.kneel = s.lku.kneel) (h7 : t.inFlight = s.inFlight) : Moves s t :=
  .aside ⟨h1, h2, hl, h3, by rw [h4], by rw [h4], by rw [h4], by rw [h4], h5, h6, [], by rw [h7, List.append_nil], rfl⟩

/-- The last step first. -/
theorem Moves.after {s t u : State} (g : Moves t u) (h : Moves s t) : Moves s u := h.trans g

/-- A chain of two: the second step is taken from whatever the first leaves. -/
theorem Moves.andThen {s t : State} {f : State → State} (h : Moves s t) (g : ∀ u, Moves u (f u)) : Moves s (f t) :=
  h.trans (g t)

variable (s : State)

theorem announce_moves (evs : List Ev) (h : evs.all plainEv = true) : Moves s (announce evs s) :=
  .aside ⟨rfl, rfl, rfl, rfl, rfl, rfl, rfl, rfl, rfl, rfl, evs, rfl, h⟩

theorem placeClaims_moves (src : Source) (cs : List Channel) (h : LockedFor s src) :
    Moves s (placeClaims src cs s) := by
  refine (placeClaims_induction (fun t => Moves s t ∧ t.mc.locked = s.mc.locked) src (fun c t ht => ?_) cs s
    ⟨.refl s, rfl⟩).1
  have hc : (placeClaim src c t).mc.locked = t.mc.locked := by rw [placeClaim_frame]
  exact ⟨ht.1.trans (.place _ _ _ fun k hk => ht.2.trans (h k hk)), hc.trans ht.2⟩

theorem withdrawClaims_moves (src : Source) (cs : List Channel) : Moves s (withdrawClaims src cs s) :=
  withdrawClaims_induction (Moves s) src (fun _ _ h => h.andThen fun u => .withdraw _ _ u) cs s (.refl s)

/-! BAU -/

theorem bauDemand_moves (d : Int) : Moves s (bauDemand d s) := by
  unfold bauDemand; split
  · exact .refl s
  · exact .brake _ s rfl rfl rfl rfl

theorem bauEmerg_moves (b : Bool) : Moves s (bauEmerg b s) := by
  unfold bauEmerg; split
  · exact .refl s
  · exact .brake _ s rfl rfl rfl rfl

theorem bauAtRest_moves (b : Bool) : Moves s (bauAtRest b s) := by
  unfold bauAtRest; split
  · exact .refl s
  · exact .brake _ s rfl rfl rfl rfl

theorem bauNode_moves (x : Axle) (st : NodeState) : Moves s (bauNode x st s) := by
  unfold bauNode; split
  · exact .refl s
  · exact .brake _ s rfl rfl rfl rfl

theorem bauMode_moves (prev new : Mode) : Moves s (bauMode prev new s) := .brake _ s rfl rfl rfl rfl

/-! SJU -/

theorem runJoint_moves : Moves s (runJoint s) := by
  unfold runJoint; split
  · exact .after (.place _ _ _ nofun) (.of_eq rfl rfl rfl rfl rfl rfl rfl rfl)
  · exact .of_eq rfl rfl rfl rfl rfl rfl rfl rfl

theorem centre_moves : Moves s (centre s) := by
  unfold centre; split
  · exact .place _ _ _ nofun
  · exact .withdraw _ _ _

theorem setCentring_moves (c : Centring) : Moves s (setCentring c s) := by
  unfold setCentring; split
  · exact .refl s
  · exact .after (centre_moves _) (.of_eq rfl rfl rfl rfl rfl rfl rfl rfl)

theorem judgeExcursion_moves : Moves s (judgeExcursion s) := by
  unfold judgeExcursion; split
  · split
    · exact .refl s
    · exact (Moves.detected _ _ _ _ _).trans (setCentring_moves _ _)
  · exact setCentring_moves _ _

theorem sjuTheta_moves (th r : Int) (v smp : Bool) : Moves s (sjuTheta th r v smp s) := by
  unfold sjuTheta; split
  · exact ((Moves.steer _ _).trans (runJoint_moves _)).trans (judgeExcursion_moves _)
  · exact (Moves.steer _ _).trans (runJoint_moves _)

theorem sjuAtRest_moves (b : Bool) : Moves s (sjuAtRest b s) :=
  .after (runJoint_moves _) (.of_eq rfl rfl rfl rfl rfl rfl rfl rfl)

theorem sjuMode_moves (prev new : Mode) : Moves s (sjuMode prev new s) := by
  have hj : ∀ j, Moves s { s with sju := j } := fun j => .of_eq rfl rfl rfl rfl rfl rfl rfl rfl
  unfold sjuMode; split
  · refine Moves.trans ?_ (centre_moves _)
    split
    · exact ((hj _).trans (t := { s with sju := _ }) (.of_eq rfl rfl rfl rfl rfl rfl rfl rfl)).trans (.place _ _ _ nofun)
    · exact hj _
  · exact setCentring_moves _ _

/-! LKU -/

theorem levelRewrites_moves (h : Int) : Moves s (rewriteChannels levelChannels (levelRewrite s.store h) s) := by
  suffices H : ∀ (ks : List Corner) (st : Store) (u : State), u.store = st →
      Moves u (rewriteChannels (ks.map Channel.lvl) (levelRewrite st h) u) from H Corner.all s.store s rfl
  intro ks
  induction ks with
  | nil => exact fun _ u _ => .refl u
  | cons k ks ih => rintro _ u rfl; exact (Moves.level h k u).trans (ih _ _ rfl)

theorem formHLane_moves (l : Lku) (h : l.kneel = s.lku.kneel) : Moves s (formHLane l s) := by
  unfold formHLane; split
  · exact .of_eq rfl rfl rfl rfl rfl rfl h rfl
  · have h0 : Moves s { s with lku := { l with hLane := hLaneOf s.store l } } := .of_eq rfl rfl rfl rfl rfl rfl h rfl
    exact h0.trans (levelRewrites_moves _ (hLaneOf s.store l))

theorem lkuMode_moves (m : Mode) : Moves s (lkuMode m s) := formHLane_moves s _ rfl

theorem lkuSpeed_moves (v : Int) (k : Bool) : Moves s (lkuSpeed v k s) := formHLane_moves s _ rfl

theorem lkuAtRest_moves (b : Bool) : Moves s (lkuAtRest b s) := .of_eq rfl rfl rfl rfl rfl rfl rfl rfl

theorem judgeKneel_moves (k : Corner) : Moves s (judgeKneel k s) := by
  unfold judgeKneel; split
  · exact .refl s
  · exact .kneeled _ _

theorem lkuChannel_moves (k : Corner) (h : Option Source) (sp : Setpoint) : Moves s (lkuChannel k h sp s) :=
  .after (judgeKneel_moves _ _) (.of_eq rfl rfl rfl rfl rfl rfl rfl rfl)

/-! ICT -/

theorem judgeEntry_moves (e : Entry) : Moves s (judgeEntry e s) := by
  have hi : ∀ i, Moves s { s with ict := i } := fun i => .of_eq rfl rfl rfl rfl rfl rfl rfl rfl
  unfold judgeEntry; split
  · exact .refl s
  · split
    · rename_i hj
      refine (hi _).trans (placeClaims_moves _ _ _ fun k hk => ?_)
      cases hk
      simp only [judged, armed, Bool.and_eq_true] at hj
      exact hj.1.1.2
    · exact (hi _).trans (withdrawClaims_moves _ _ _)

theorem judgeEntries_moves (es : List Entry) : Moves s (judgeEntries es s) :=
  judgeEntries_induction (Moves s) (fun _ _ h => h.andThen fun u => judgeEntry_moves u _) es s (.refl s)

theorem ictWith_moves (i : Ict) (q : Watched) : Moves s (judgeWatching q { s with ict := i }) :=
  .after (judgeEntries_moves _ _) (.of_eq rfl rfl rfl rfl rfl rfl rfl rfl)

theorem ictMode_moves (m : Mode) : Moves s (ictMode m s) :=
  .after (judgeEntries_moves _ _) (.of_eq rfl rfl rfl rfl rfl rfl rfl rfl)

/-! MRU, DSV -/

theorem setAtRest_moves (b : Bool) : Moves s (setAtRest b s) := by
  unfold setAtRest; split
  · exact .refl s
  · exact .aside ⟨rfl, rfl, rfl, rfl, rfl, rfl, rfl, rfl, rfl, rfl, [_], rfl, rfl⟩

theorem formSpeed_moves (m : Mru) : Moves s (formSpeed m s) := by
  have h : Moves s (announce (speedEvents m) { s with mru := mruFormed m }) :=
    .after (announce_moves _ _ (by unfold speedEvents; split <;> rfl)) (.of_eq rfl rfl rfl rfl rfl rfl rfl rfl)
  unfold formSpeed; split
  · exact .after (.detected _ _ _ _ _) (h.trans (.of_eq rfl rfl rfl rfl rfl rfl rfl rfl))
  · exact h

theorem mruRecompute_moves (m : Mru) : Moves s (mruRecompute m s) :=
  (formSpeed_moves s m).trans (.after (setAtRest_moves _ _) (.of_eq rfl rfl rfl rfl rfl rfl rfl rfl))

theorem dsvChannel_moves (n : Door) (sp : Setpoint) : Moves s (dsvChannel n sp s) := by
  unfold dsvChannel; simp only; split <;> exact .of_eq rfl rfl rfl rfl rfl rfl rfl rfl

theorem dsvKneel_moves (k : KneelState) : Moves s (dsvKneel k s) := by
  unfold dsvKneel; split
  · exact .refl s
  · exact .of_eq rfl rfl rfl rfl rfl rfl rfl rfl

/-! FLC, MC -/

theorem finishTest_moves (r : TestResult) : Moves s (finishTest r s) := by
  have h : Moves s (raiseTestFail (withFlc { s.flc with
      test := { s.flc.test with result := r }, testLive := false, abortDue := false } s)) := by
    unfold raiseTestFail; split
    · exact .after (.detected _ _ _ _ _) (.of_eq rfl rfl rfl rfl rfl rfl rfl rfl)
    · exact .of_eq rfl rfl rfl rfl rfl rfl rfl rfl
  exact h.trans (.of_eq rfl rfl rfl rfl rfl rfl rfl rfl)

theorem flcMode_moves (prev new : Mode) : Moves s (flcMode prev new s) := by
  unfold flcMode
  split_ifs
  · exact .of_eq rfl rfl rfl rfl rfl rfl rfl rfl
  · exact .of_eq rfl rfl rfl rfl rfl rfl rfl rfl
  · exact .of_eq rfl rfl rfl rfl rfl rfl rfl rfl
  · unfold flcLeaveService; split_ifs
    · exact .of_eq rfl rfl rfl rfl rfl rfl rfl rfl
    · exact finishTest_moves _ _
    · exact .refl s
  · exact .refl s

/-- MC's copies take a value. -/
theorem mcWith_moves (m : Mc) (hs : m.store = s.mc.store) (hm : m.mode = s.mc.mode)
    (hl : m.locked = s.mc.locked) : Moves s { s with mc := m } :=
  .of_eq hs hm hl rfl rfl rfl rfl rfl

theorem mcMode_moves (new : Mode) : Moves s (mcMode new s) := by
  unfold mcMode; split
  · exact placeClaims_moves _ _ _ nofun
  · exact .refl s

theorem mcAtRest_moves (b : Bool) : Moves s (mcAtRest b s) := by
  have h : Moves s { s with mc := { s.mc with atRest := b } } := .of_eq rfl rfl rfl rfl rfl rfl rfl rfl
  unfold mcAtRest; simp only; split_ifs
  · exact h.trans (withdrawClaims_moves _ _ _)
  · exact h.trans (placeClaims_moves _ _ _ nofun)
  · exact h

/-! Announcements -/

theorem takeChannel_moves (c : Channel) (h : Option Source) (sp : Setpoint) : Moves s (takeChannel c h sp s) := by
  unfold takeChannel; split
  · exact .of_eq rfl rfl rfl rfl rfl rfl rfl rfl
  · exact lkuChannel_moves _ _ _ _
  · exact dsvChannel_moves _ _ _
  · exact .refl s

theorem takeNode_moves (n : Node) (st : NodeState) : Moves s (takeNode n st s) := by
  unfold takeNode; split
  · exact (bauNode_moves _ _ _).trans (mruRecompute_moves _ _)
  · exact setCentring_moves _ _
  · exact .refl s
  · exact .of_eq rfl rfl rfl rfl rfl rfl rfl rfl

theorem lvMode_moves (prev new : Mode) : Moves s (lvMode prev new s) := by
  unfold lvMode; split_ifs <;> exact .of_eq rfl rfl rfl rfl rfl rfl rfl rfl

theorem takeMode_moves (prev new : Mode) : Moves s (takeMode prev new s) := by
  have h0 : Moves s (if clearsLists new then clearLists s else s) := by
    split
    · exact .cleared s
    · exact .refl s
  have h1 : ∀ t, Moves t (if new = .standby then mruStandby t else t) := fun t => by
    split
    · exact .of_eq rfl rfl rfl rfl rfl rfl rfl rfl
    · exact .refl t
  exact .after (mcMode_moves _ new) (.after (ictMode_moves _ new) (.after (lkuMode_moves _ new)
    (.after (sjuMode_moves _ prev new) (.after (bauMode_moves _ prev new) (.after (h1 _)
    (.after (flcMode_moves _ prev new) (.after (lvMode_moves _ prev new) h0)))))))

/-- The state in which BAU has taken what an announcement says of the doors or the kneel state (R86). -/
def bauTold (e : Ev) (s : State) : State :=
  match e with
  | .doors d => bauFloor d s.bau.kneel s
  | .kneel k => bauFloor s.bau.doors k s
  | _ => s

/-- The taking of an announcement: BAU's floor first, if it concerns it, and then a chain of moves. -/
theorem handle_moves (e : Ev) : Moves (bauTold e s) (handle e s) := by
  cases e with
  | channel c h sp _ => exact takeChannel_moves _ _ _ _
  | demand d => exact (bauDemand_moves _ _).trans (ictWith_moves _ _ _)
  | emerg b => exact (bauEmerg_moves _ _).trans (ictWith_moves _ _ _)
  | angle a => exact .steer _ _
  | steerMode m => exact .steer _ _
  | levelMode m => exact formHLane_moves s _ rfl
  | placeLane => exact placeClaims_moves _ _ _ nofun
  | placeEmerg => exact placeClaims_moves _ _ _ nofun
  | withdrawEmerg => exact withdrawClaims_moves _ _ _
  | speed v k => exact .after (lkuSpeed_moves _ v k) (.after (.steer _ _) (ictWith_moves s _ _))
  | atRest b =>
    exact .after (mcAtRest_moves _ b) (.after (lkuAtRest_moves _ b) (.after (sjuAtRest_moves _ b)
      (.after (ictWith_moves _ _ _) (bauAtRest_moves s b))))
  | theta th r v smp => exact sjuTheta_moves _ _ _ _ _
  | artic a => exact ictWith_moves _ _ _
  | node n st => exact takeNode_moves _ _ _
  | kneel k =>
    exact .after (mcWith_moves (dsvKneel k (ictKneel k (bauFloor s.bau.doors k s))) _ rfl rfl rfl)
      (.after (dsvKneel_moves _ k) (ictWith_moves _ _ _))
  | doors d =>
    exact .after (mcWith_moves (ictDoors d (bauFloor d s.bau.kneel s)) _ rfl rfl rfl) (ictWith_moves _ _ _)
  | mode prev new => exact takeMode_moves s prev new
  | followMark b => exact setCentring_moves _ _

/-- The link goes on. -/
theorem pollNext_moves : Moves s (pollNext s) := by
  unfold pollNext; split <;> exact .of_eq rfl rfl rfl rfl rfl rfl rfl rfl

theorem advance_moves : Moves s (advance s) := by
  unfold advance; split
  · exact .refl s
  · exact .refl s
  · split
    · split
      · unfold endRound; split
        · exact .after (pollNext_moves _) (.of_eq rfl rfl rfl rfl rfl rfl rfl rfl)
        · exact .of_eq rfl rfl rfl rfl rfl rfl rfl rfl
      · exact pollNext_moves _
    · exact .refl s
  · exact .of_eq rfl rfl rfl rfl rfl rfl rfl rfl
  · exact .after (pollNext_moves _) (.of_eq rfl rfl rfl rfl rfl rfl rfl rfl)
  · exact .of_eq rfl rfl rfl rfl rfl rfl rfl rfl

/-- What every move keeps, and BAU's taking of the doors and the kneel state keeps, a completed step keeps. -/
theorem complete_induction (P : State → Prop) (hm : ∀ s t, Moves s t → P s → P t)
    (ht : ∀ e rest t, t.inFlight = e :: rest → P t → P (bauTold e { t with inFlight := rest })) (h : P s) :
    P (complete s) :=
  hm _ _ (advance_moves _) (settle_induction P (fun e rest t he hp => hm _ _ (handle_moves _ e) (ht e rest t he hp))
    settleLimit s h)

end Sys2Proof.Machine
end

