-- ==== Sys2Proof/Laws/Claims.lean ====
section
/-! SUPPORT. What a move does to the claims: which records it leaves, that STR_C and JNT claims stay within their domains
(R100, R1), and that the claims on BRK_B and BRK_C respect the halt floor (R87). -/

namespace Sys2Proof.Machine

open Sys2Proof.Safety

/-- A detection leaves the mode or takes it to DEGRADED or SAFE_STOP (R165). -/
theorem mode_detect (s : State) (k : FaultKind) (src : FaultSource) (ch : Option Channel) (item : List Byte) :
    (detect k src ch item s).mode = s.mode ∨ (detect k src ch item s).mode = .degraded ∨
      (detect k src ch item s).mode = .safeStop := by
  rcases detect_mc s k src ch item with h | ⟨m, hm, h⟩
  · exact .inl (congrArg Mc.mode h)
  · have : (detect k src ch item s).mode = m := congrArg Mc.mode h
    rw [this]; exact .inr hm

/-- No detection leads into POWERUP, CONFIG or SERVICE (R165). -/
theorem resting_detect (s : State) (k : FaultKind) (src : FaultSource) (ch : Option Channel) (item : List Byte)
    (h : Resting (detect k src ch item s)) : Resting s := by
  unfold Resting at h ⊢
  rcases mode_detect s k src ch item with e | e | e <;> rw [e] at h
  · exact h
  · simp at h
  · simp at h

@[simp] theorem cau_detect (s : State) (k : FaultKind) (src : FaultSource) (ch : Option Channel) (item : List Byte) :
    (detect k src ch item s).cau = s.cau := by rw [detect_frame]

@[simp] theorem bau_detect (s : State) (k : FaultKind) (src : FaultSource) (ch : Option Channel) (item : List Byte) :
    (detect k src ch item s).bau = s.bau := by rw [detect_frame]

/-- Nor does a saturation fault. -/
theorem resting_raiseSaturated (s : State) (was : PerAxle Bool) (x : Axle) (h : Resting (raiseSaturated was x s)) :
    Resting s := by
  unfold raiseSaturated at h; split at h
  · exact resting_detect _ _ _ _ _ h
  · exact h

@[simp] theorem cau_raiseSaturated (s : State) (was : PerAxle Bool) (x : Axle) :
    (raiseSaturated was x s).cau = s.cau := by
  unfold raiseSaturated; split
  · rw [cau_detect]
  · rfl

@[simp] theorem store_raiseSaturated (s : State) (was : PerAxle Bool) (x : Axle) :
    (raiseSaturated was x s).store = s.store := by
  unfold raiseSaturated; split
  · rw [detect_store]
  · rfl

/-- Nor does BAU's recompute. -/
theorem resting_bauRecompute (s : State) (h : Resting (bauRecompute s)) : Resting s := by
  have e : (bauRecompute s).mode = (judgeSaturation s).mode := rfl
  have h1 : Resting (judgeSaturation s) := by unfold Resting at h ⊢; rwa [e] at h
  unfold judgeSaturation at h1
  have h2 := resting_raiseSaturated _ _ _ (resting_raiseSaturated _ _ _ (resting_raiseSaturated _ _ _ h1))
  exact h2

@[simp] theorem store_bauRecompute (s : State) : (bauRecompute s).store = s.store := (bauRecompute_mild s).same.store

/-- The saturation flags leave the store alone. -/
theorem store_judgeSaturation (s : State) : (judgeSaturation s).store = s.store := by
  unfold judgeSaturation; rw [store_raiseSaturated, store_raiseSaturated, store_raiseSaturated]; rfl
/-- They leave the claims alone. -/
theorem cau_judgeSaturation (s : State) : (judgeSaturation s).cau = s.cau := by
  unfold judgeSaturation; simp
/-- They are all that is formed anew of BAU's record (R81). -/
theorem bau_judgeSaturation (s : State) :
    (judgeSaturation s).bau = { s.bau with saturated := saturationNow s.store s.bau } := by
  unfold judgeSaturation; simp

/-- What a recompute hands CAU for a brake channel. -/
def brakeHanded (st : Store) (b : Bau) (x : Axle) (src : Source) : Option Setpoint :=
  ((brakeSetpoint st b x src).map Setpoint.num).map (st.toDomain (.brk x))

/-- A recompute rewrites the three brake lists and leaves the others alone (R88). -/
theorem cau_bauRecompute (s : State) (c : Channel) : (bauRecompute s).cau.get c = match c with
    | .brk x => rewriteList (brakeHanded s.store s.bau x) (s.cau.get (.brk x))
    | c => s.cau.get c := by
  have h : ∀ x src, brakeSetpoint s.store { s.bau with saturated := saturationNow s.store s.bau } x src =
      brakeSetpoint s.store s.bau x src := fun x src => rfl
  have e : ∀ (t : State) x, (brakeRewrite t x).cau =
      t.cau.set (.brk x) (rewriteList (brakeHanded t.store t.bau x) (t.cau.get (.brk x))) := fun t x => rfl
  have st : ∀ (t : State) x, (brakeRewrite t x).store = t.store := fun t x => rfl
  have bt : ∀ (t : State) x, (brakeRewrite t x).bau = t.bau := fun t x => rfl
  have hb : ∀ x, brakeHanded s.store { s.bau with saturated := saturationNow s.store s.bau } x =
      brakeHanded s.store s.bau x := fun x => rfl
  unfold bauRecompute
  simp only [e, st, bt, store_judgeSaturation, cau_judgeSaturation, bau_judgeSaturation, hb]
  rcases c with x | _ | _ | k | n
  · cases x <;> rfl
  all_goals rfl

/-- A placement leaves the mode alone. -/
theorem resting_placeClaim (s : State) (src : Source) (c : Channel) (h : Resting (placeClaim src c s)) : Resting s := by
  rw [placeClaim_frame] at h; exact h

/-- A placement leaves the store alone. -/
theorem store_placeClaim (s : State) (src : Source) (c : Channel) : (placeClaim src c s).store = s.store := by
  rw [placeClaim_frame]; rfl

/-- A placement in POWERUP, CONFIG or SERVICE is dropped (R11). -/
theorem placeClaim_resting (s : State) (src : Source) (c : Channel) (h : Resting s) : placeClaim src c s = s := by
  refine placeClaim_dropped s src c ?_
  unfold accepts
  rcases h with h | h | h <;> rw [h] <;> rfl

/-- No move leads into POWERUP, CONFIG or SERVICE, and none changes the store. -/
theorem Moves.resting {s t : State} (h : Moves s t) : t.store = s.store ∧ (Resting t → Resting s) := by
  induction h with
  | refl s => exact ⟨rfl, id⟩
  | trans _ _ h1 h2 => exact ⟨h2.1.trans h1.1, fun h => h1.2 (h2.2 h)⟩
  | aside h => exact ⟨h.store, fun g => by unfold Resting at g ⊢; rwa [h.mode] at g⟩
  | place src c s => exact ⟨store_placeClaim s src c, resting_placeClaim s src c⟩
  | withdraw src c s => exact ⟨rfl, id⟩
  | steer j s => exact ⟨rfl, id⟩
  | level h k s => exact ⟨rfl, id⟩
  | brake b s _ _ _ _ => exact ⟨store_bauRecompute _, fun h => resting_bauRecompute { s with bau := b } h⟩
  | detected k src ch item s => exact ⟨detect_store _ _ _ _ _, resting_detect s k src ch item⟩
  | kneeled k s => exact ⟨rfl, id⟩
  | cleared s => exact ⟨rfl, id⟩

/-- No move locks or unlocks the store. -/
theorem Moves.locked {s t : State} (h : Moves s t) : t.mc.locked = s.mc.locked := by
  induction h with
  | refl s => rfl
  | trans _ _ h1 h2 => exact h2.trans h1
  | aside h => exact h.locked
  | place src c s => rw [placeClaim_frame]
  | withdraw src c s => rfl
  | steer j s => rfl
  | level h k s => rfl
  | brake b s _ _ _ _ => exact (bauRecompute_mild _).same.locked
  | detected k src ch item s => exact (detect_mild s k src ch item).same.locked
  | kneeled k s => rfl
  | cleared s => rfl

/-- CAU accepts no placement in POWERUP, CONFIG or SERVICE (R11). -/
theorem accepts_resting (s : State) (h : Resting s) (c : Channel) (src : Source) : accepts s src c = false := by
  unfold accepts
  rcases h with h | h | h <;> rw [h] <;> rfl

/-- After a move each record has a source that had one before, or one whose placement CAU accepted, a programmable entry's
only with the store locked, and not in POWERUP, CONFIG or SERVICE (R11, R147). -/
theorem Moves.sources {s t : State} (h : Moves s t) (c : Channel) : ∀ y ∈ (t.cau.get c).claims,
    (∃ x ∈ (s.cau.get c).claims, x.source = y.source) ∨
      (eligible s.store y.source c = true ∧ LockedFor s y.source ∧ ¬ Resting t) := by
  have of_rewrite : ∀ (f : Source → Option Setpoint) (cl : ClaimList), ∀ y ∈ (rewriteList f cl).claims,
      ∃ x ∈ cl.claims, x.source = y.source := fun f cl y hy => by
    obtain ⟨x, hx, e⟩ := asks_rewriteList f cl y hy
    exact ⟨x, hx, (congrArg Prod.fst e).symm⟩
  have rewritten : ∀ (s : State) d f, ∀ y ∈ ((rewriteChannel d f s).cau.get c).claims,
      ∃ x ∈ (s.cau.get c).claims, x.source = y.source := fun s d f y hy => by
    rw [rewriteChannel_frame] at hy
    by_cases hd : c = d
    · subst hd; exact of_rewrite _ _ y (by simpa using hy)
    · exact ⟨y, by simpa [hd] using hy, rfl⟩
  induction h with
  | refl s => exact fun y hy => .inl ⟨y, hy, rfl⟩
  | trans h1 h2 g1 g2 =>
    intro y hy
    rcases g2 y hy with ⟨x, hx, e⟩ | ⟨he, hl, hr⟩
    · rw [← e]
      rcases g1 x hx with g | ⟨he, hl, hr⟩
      · exact .inl g
      · exact .inr ⟨he, hl, fun hn => hr (h2.resting.2 hn)⟩
    · exact .inr ⟨h1.resting.1 ▸ he, fun k hk => h1.locked ▸ hl k hk, hr⟩
  | aside h => exact fun y hy => .inl ⟨y, h.cau ▸ hy, rfl⟩
  | place src d s hl =>
    intro y hy
    by_cases hd : c = d
    · subst hd
      by_cases ha : accepts s src c = true
      · rw [placeClaim_cau s src c ha] at hy
        rcases asks_placeList _ _ _ _ _ hy with e | ⟨x, hx, e⟩
        · have es : y.source = src := congrArg Prod.fst e
          rw [es]
          refine .inr ⟨by unfold accepts at ha; simp_all, hl, fun hr => ?_⟩
          rw [accepts_resting s (resting_placeClaim s src c hr)] at ha; cases ha
        · exact .inl ⟨x, hx, congrArg Prod.fst e⟩
      · rw [placeClaim_dropped s src c (by simpa using ha)] at hy; exact .inl ⟨y, hy, rfl⟩
    · rw [placeClaim_cau_of_ne s src d c hd] at hy; exact .inl ⟨y, hy, rfl⟩
  | withdraw src d s =>
    intro y hy
    rw [withdrawClaim_frame] at hy
    by_cases hd : c = d
    · subst hd
      obtain ⟨x, hx, e⟩ := asks_withdrawList src _ _ (by simpa using hy)
      exact .inl ⟨x, hx, congrArg Prod.fst e⟩
    · exact .inl ⟨y, by simpa [hd] using hy, rfl⟩
  | steer j s => exact fun y hy => .inl (rewritten _ _ _ y hy)
  | level h k s => exact fun y hy => .inl (rewritten _ _ _ y hy)
  | brake b s _ _ _ _ =>
    intro y hy
    rw [cau_bauRecompute] at hy
    rcases c with x | _ | _ | k | n
    · exact .inl (of_rewrite _ _ y hy)
    all_goals exact .inl ⟨y, hy, rfl⟩
  | detected k src ch item s => exact fun y hy => .inl ⟨y, by rwa [cau_detect] at hy, rfl⟩
  | kneeled k s => exact fun y hy => .inl ⟨y, hy, rfl⟩
  | cleared s =>
    intro y hy
    have : (clearLists s).cau.get c = ⟨[], 0⟩ := by rw [clearLists_cau, cauReset, PerChannel_get_of]; rfl
    rw [this] at hy; cases hy

/-- What a move can do to the records of a channel. -/
def Recorded (s t : State) (c : Channel) : Prop :=
  ∀ y ∈ (t.cau.get c).claims,
    (∃ src, accepts s src c = true ∧ y.asks = (src, s.store.toDomain c (placementSetpoint s src c)) ) ∨
    ∃ x ∈ (s.cau.get c).claims, x.asks = y.asks ∨
      ∃ sp, y.asks = (x.source, s.store.toDomain c sp)

/-- A list that stays as it is. -/
theorem recorded_same (s t : State) (c : Channel) (h : t.cau.get c = s.cau.get c) : Recorded s t c :=
  fun y hy => .inr ⟨y, h ▸ hy, .inl rfl⟩

/-- A rewritten list (R19). -/
theorem recorded_rewrite (s t : State) (c : Channel) (f : Source → Option Setpoint)
    (h : t.cau.get c = rewriteList (fun src => (f src).map (s.store.toDomain c)) (s.cau.get c)) : Recorded s t c := by
  intro y hy
  rw [h] at hy
  obtain ⟨x, hx, e⟩ := asks_rewriteList _ _ _ hy
  cases hf : f x.source with
  | none => rw [hf] at e; exact .inr ⟨x, hx, .inl e.symm⟩
  | some sp => rw [hf] at e; exact .inr ⟨x, hx, .inr ⟨sp, e⟩⟩

/-- A placement (R12, R13). -/
theorem recorded_place (s : State) (src : Source) (c d : Channel) : Recorded s (placeClaim src c s) d := by
  by_cases hd : d = c
  · subst hd
    by_cases ha : accepts s src d = true
    · intro y hy
      rw [placeClaim_cau s src d ha] at hy
      rcases asks_placeList _ _ _ _ _ hy with e | ⟨x, hx, e⟩
      · exact .inl ⟨src, ha, e⟩
      · exact .inr ⟨x, hx, .inl e⟩
    · rw [placeClaim_dropped s src d (by simpa using ha)]; exact recorded_same _ _ _ rfl
  · exact recorded_same _ _ _ (placeClaim_cau_of_ne _ _ _ _ hd)

/-- A rewrite of one channel. -/
theorem recorded_rewriteChannel (s : State) (c d : Channel) (f : Source → Option Setpoint) :
    Recorded s (rewriteChannel c f s) d := by
  by_cases hd : d = c
  · subst hd; exact recorded_rewrite _ _ _ f (by rw [rewriteChannel_frame]; simp)
  · exact recorded_same _ _ _ (by rw [rewriteChannel_frame]; simp [hd])

/-- The STR_C and JNT claims stay within their domains where every record is one that stood, a placed one or a rewritten
one (R1). -/
theorem steerJoint_of_recorded {s t : State} (hs : t.store = s.store) (hr : Resting t → Resting s)
    (hrec : ∀ c, Recorded s t c) (hno : Resting s → ∀ c src, accepts s src c = false) (h : SteerJointOk s) :
    SteerJointOk t := by
  obtain ⟨h1, h2, h3, h4, h5, h6⟩ := h
  have hd : ∀ sp, Between (-s.store.deltaMax) s.store.deltaMax (s.store.toDomain .str sp) := by
    intro sp
    cases sp <;> simp only [Store.toDomain, Store.rest, Between, clamp] <;> omega
  have hj : ∀ sp, Between s.store.iBase s.store.iMax (s.store.toDomain .jnt sp) := by
    intro sp
    cases sp <;> simp only [Store.toDomain, Store.rest, Between, clamp] <;> omega
  refine ⟨by unfold StoreOk at *; rwa [hs], ?_, by rwa [hs], by rwa [hs], ?_, ?_⟩
  · intro hrt c
    have hrs := hr hrt
    rw [List.eq_nil_iff_forall_not_mem]
    intro y hy
    rcases hrec c y hy with ⟨src, ha, -⟩ | ⟨x, hx, -⟩
    · rw [hno hrs] at ha; cases ha
    · rw [h2 hrs c] at hx; cases hx
  · intro y hy
    rw [hs]
    rcases hrec _ y hy with ⟨src, ha, e⟩ | ⟨x, hx, e | ⟨sp, e⟩⟩
    · rw [show y.setpoint = _ from congrArg Prod.snd e]; exact hd _
    · exact (show x.setpoint = y.setpoint from congrArg Prod.snd e) ▸ h5 x hx
    · rw [show y.setpoint = _ from congrArg Prod.snd e]; exact hd _
  · intro y hy
    rw [hs]
    rcases hrec _ y hy with ⟨src, ha, e⟩ | ⟨x, hx, e | ⟨sp, e⟩⟩
    · rw [show y.setpoint = _ from congrArg Prod.snd e]; exact hj _
    · exact (show x.setpoint = y.setpoint from congrArg Prod.snd e) ▸ h6 x hx
    · rw [show y.setpoint = _ from congrArg Prod.snd e]; exact hj _

/-- Every move keeps the STR_C and JNT claims within their domains (R100). -/
theorem Moves.steerJoint {s t : State} (h : Moves s t) : SteerJointOk s → SteerJointOk t := by
  induction h with
  | refl s => exact id
  | trans _ _ h1 h2 => exact h2 ∘ h1
  | @aside s t h =>
    exact steerJoint_of_recorded h.store (Moves.aside h).resting.2 (fun c => recorded_same _ _ _ (by rw [h.cau]))
      (accepts_resting s)
  | place src c s =>
    exact steerJoint_of_recorded (store_placeClaim s src c) (resting_placeClaim s src c) (recorded_place s src c)
      (accepts_resting s)
  | withdraw src c s =>
    refine steerJoint_of_recorded rfl id (fun d => ?_) (accepts_resting s)
    by_cases hd : d = c
    · subst hd
      intro y hy
      rw [withdrawClaim_frame] at hy
      obtain ⟨x, hx, e⟩ := asks_withdrawList src _ _ (by simpa using hy)
      exact .inr ⟨x, hx, .inl e⟩
    · exact recorded_same _ _ _ (by rw [withdrawClaim_frame]; simp [hd])
  | steer j s =>
    refine steerJoint_of_recorded rfl id (fun d => ?_) (accepts_resting s)
    by_cases hd : d = .str
    · subst hd
      exact recorded_rewrite _ _ _ (steerSetpoint (sjuSteered s.store j)) rfl
    · refine recorded_same _ _ _ ?_
      unfold runSteer; rw [rewriteChannel_frame]; simp [hd]
  | level h k s => exact steerJoint_of_recorded rfl id (fun d => recorded_rewriteChannel s _ d _) (accepts_resting s)
  | brake b s h1 h2 h3 h4 =>
    refine steerJoint_of_recorded (Moves.brake b s h1 h2 h3 h4).resting.1 (Moves.brake b s h1 h2 h3 h4).resting.2
      (fun d => ?_) (accepts_resting s)
    rcases d with x | _ | _ | k | n
    · exact recorded_rewrite _ _ _ _ (cau_bauRecompute _ (.brk x))
    all_goals exact recorded_same _ _ _ (cau_bauRecompute _ _)
  | detected k src ch item s =>
    exact steerJoint_of_recorded (detect_store _ _ _ _ _) (resting_detect s k src ch item)
      (fun c => recorded_same _ _ _ (by rw [cau_detect])) (accepts_resting s)
  | kneeled k s => exact steerJoint_of_recorded rfl id (fun c => recorded_same _ _ _ rfl) (accepts_resting s)
  | cleared s =>
    refine steerJoint_of_recorded rfl id (fun c y hy => ?_) (accepts_resting s)
    have : (clearLists s).cau.get c = ⟨[], 0⟩ := by rw [clearLists_cau, cauReset, PerChannel_get_of]; rfl
    rw [this] at hy; cases hy

/-- While the flag stands BAU gives no claim on BRK_B or BRK_C less than H (R83, R87). -/
theorem brakeSetpoint_floor (st : Store) (b : Bau) (x : Axle) (src : Source) (v : Int) (hf : b.floor = true)
    (hx : x ≠ .a) (h : brakeSetpoint st b x src = some v) : st.haltP ≤ v := by
  have hfl : ∀ w, st.haltP ≤ floored st b x w := by
    intro w; unfold floored; rw [if_pos (by simp [hf, hx])]; exact le_max_right _ _
  have hh : st.haltP ≤ haltPressure st b x := le_max_right _ _
  unfold brakeSetpoint at h
  split at h
  · cases h; exact hfl _
  · cases h; exact hfl _
  · cases h; split
    · exact le_rfl
    · exact hfl _
  · cases h; exact hh
  · cases h; exact hh
  · cases h; exact hh
  · split at h
    · cases h; exact hh
    · rw [if_neg hx] at h
      obtain ⟨g, -, rfl⟩ := Option.map_eq_some_iff.1 h
      exact hfl _
  · cases h

/-- Whether BAU rewrites a source's claim on BRK_B or BRK_C hangs on the entry's kind and given value alone (R85). -/
theorem brakeSetpoint_none (st : Store) (b b' : Bau) (x : Axle) (hx : x ≠ .a) (src : Source)
    (hg : ∀ k, givenValue b x k ≠ none → givenValue b' x k ≠ none) (h : brakeSetpoint st b' x src = none) :
    brakeSetpoint st b x src = none := by
  unfold brakeSetpoint at h ⊢
  split at h <;> try cases h
  · rename_i k
    split at h
    · cases h
    · rename_i hk
      simp only [if_neg hx, Option.map_eq_none_iff] at h ⊢
      by_contra hc; exact hg k hc h
  · rename_i h1 h2 h3 h4 h5 h6 h7
    rfl

theorem givenValue_put (b : Bau) (x y : Axle) (k j : Fin 12) (v : Int) :
    givenValue { b with given := putGiven x k v b.given } y j = if y = x ∧ j = k then some v else givenValue b y j := by
  unfold givenValue putGiven
  by_cases h : y = x ∧ j = k
  · obtain ⟨rfl, rfl⟩ := h; simp
  · rw [if_neg h]
    have h' : ¬ (x = y ∧ k = j) := fun e => h ⟨e.1.symm, e.2.symm⟩
    rw [List.find?_cons, show (decide (x = y) && decide (k = j)) = false by simpa using h']
    simp only
    congr 1
    rw [List.find?_filter]
    congr 1; funext g
    by_cases hg : g.axle = y ∧ g.entry = j
    · obtain ⟨rfl, rfl⟩ := hg
      simpa using not_and_or.1 h
    · have : (decide (g.axle = y) && decide (g.entry = j)) = false := by simpa using hg
      simp [this]; 

/-- Placements never take a given value away (R85). -/
theorem givenAfter_keeps (s : State) (src : Source) (c : Channel) (x : Axle) (k : Fin 12)
    (h : givenValue s.bau x k ≠ none) : givenValue { s.bau with given := givenAfter s src c } x k ≠ none := by
  unfold givenAfter
  split
  · split
    · exact h
    · split
      · rw [givenValue_put]; split
        · simp
        · exact h
      · exact h
  · exact h

/-- A brake setpoint of H or more stays so in its domain (R1). -/
theorem between_toDomain (st : Store) (hH : 0 ≤ st.haltP ∧ st.haltP ≤ 600) (x : Axle) (v : Int) (h : st.haltP ≤ v) :
    Between st.haltP 850 (st.toDomain (.brk x) (.num v)) := by
  simp only [Store.toDomain, Between, clamp]; omega

/-- A claim as it is placed on BRK_B or BRK_C (R84, R87). -/
theorem placed_floored (s : State) (src : Source) (x : Axle) (hx : x ≠ .a) (hH : 0 ≤ s.store.haltP ∧ s.store.haltP ≤ 600)
    (ha : accepts s src (.brk x) = true) :
    (s.bau.floor = true → Between s.store.haltP 850 (s.store.toDomain (.brk x) (placementSetpoint s src (.brk x)))) ∧
    (brakeSetpoint s.store { s.bau with given := givenAfter s src (.brk x) } x src = none →
      Between s.store.haltP 850 (s.store.toDomain (.brk x) (placementSetpoint s src (.brk x)))) := by
  have hb := between_toDomain s.store hH x
  have he : eligible s.store src (.brk x) = true := by unfold accepts at ha; simp_all
  have hfl : s.bau.floor = true → ∀ w, s.store.haltP ≤ floored s.store s.bau x w := by
    intro hf w; unfold floored; rw [if_pos (by simp [hf, hx])]; exact le_max_right _ _
  by_cases hen : ∃ e, src = .entry e
  · obtain ⟨e, rfl⟩ := hen
    show (_ → Between _ _ (s.store.toDomain _ (entrySetpoint s e (.brk x)))) ∧
      (_ → Between _ _ (s.store.toDomain _ (entrySetpoint s e (.brk x))))
    cases hk : (entryFields s.store e).kind with
    | halt =>
      have : entrySetpoint s e (.brk x) = .num (haltPressure s.store s.bau x) := by unfold entrySetpoint; rw [hk]
      rw [this]; exact ⟨fun _ => hb _ (le_max_right _ _), fun _ => hb _ (le_max_right _ _)⟩
    | off =>
      have : entrySetpoint s e (.brk x) = .num s.store.haltP := by unfold entrySetpoint; rw [hk]; rfl
      rw [this]; exact ⟨fun _ => hb _ le_rfl, fun _ => hb _ le_rfl⟩
    | centre =>
      have : entrySetpoint s e (.brk x) = .num s.store.haltP := by unfold entrySetpoint; rw [hk]; rfl
      rw [this]; exact ⟨fun _ => hb _ le_rfl, fun _ => hb _ le_rfl⟩
    | followBase =>
      have : entrySetpoint s e (.brk x) = .num s.store.haltP := by unfold entrySetpoint; rw [hk]; rfl
      rw [this]; exact ⟨fun _ => hb _ le_rfl, fun _ => hb _ le_rfl⟩
    | holdPresent =>
      have : entrySetpoint s e (.brk x) = .num (floored s.store s.bau x (numOf (s.effective (.brk x)))) := by
        unfold entrySetpoint; rw [hk]
      rw [this]
      refine ⟨fun hf => hb _ (hfl hf _), fun hn => ?_⟩
      exfalso
      rcases e with f | k
      · cases f <;> cases hk
      · have hk' : s.store.entryKind k = .holdPresent := hk
        have hg : givenAfter s (.entry (.prog k)) (.brk x) = putGiven x k (numOf (s.effective (.brk x))) s.bau.given := by
          simp [givenAfter, hx, hk', valueGiven]
        rw [hg] at hn
        simp [brakeSetpoint, hk', hx, givenValue_put] at hn
    | value n =>
      have : entrySetpoint s e (.brk x) = .num (floored s.store s.bau x (clamp 0 850 n)) := by
        unfold entrySetpoint; rw [hk]
      rw [this]
      refine ⟨fun hf => hb _ (hfl hf _), fun hn => ?_⟩
      exfalso
      rcases e with f | k
      · cases f <;> cases hk
      · have hk' : s.store.entryKind k = .value n := hk
        have hg : givenAfter s (.entry (.prog k)) (.brk x) = putGiven x k (clamp 0 850 n) s.bau.given := by
          simp [givenAfter, hx, hk', valueGiven]
        rw [hg] at hn
        simp [brakeSetpoint, hk', hx, givenValue_put] at hn
  · have hp : placementSetpoint s src (.brk x) = .num ((brakeSetpoint s.store s.bau x src).getD 0) := by
      unfold placementSetpoint
      split
      · rename_i e; exact absurd ⟨_, rfl⟩ hen
      · rename_i e; cases e; rfl
      all_goals (rename_i e; cases e)
    have hsome : ∃ v, brakeSetpoint s.store s.bau x src = some v := by
      unfold eligible at he
      split at he <;> first | (rename_i e; cases e; done) | skip
      all_goals first | exact ⟨_, rfl⟩ | (exact absurd ⟨_, rfl⟩ hen) | simp_all
    obtain ⟨v, hv⟩ := hsome
    rw [hp, hv]
    refine ⟨fun hf => hb _ (brakeSetpoint_floor _ _ _ _ _ hf hx hv), fun hn => ?_⟩
    have := brakeSetpoint_none s.store s.bau _ x hx src (fun k => givenAfter_keeps s src (.brk x) x k) hn
    rw [this] at hv; cases hv

/-- The claims' half of the halt floor law. -/
def FloorClaims (s : State) : Prop :=
  StoreOk s ∧ ListsRest s ∧ (0 ≤ s.store.haltP ∧ s.store.haltP ≤ 600) ∧
    ∀ axle, axle ≠ .a → ∀ x ∈ (s.cau.get (.brk axle)).claims, ClaimFloored s axle x

/-- The lists stay empty in POWERUP, CONFIG and SERVICE. -/
theorem listsRest_of {s t : State} (hr : Resting t → Resting s)
    (hrec : ∀ c, ∀ y ∈ (t.cau.get c).claims, (∃ src, accepts s src c = true) ∨ ∃ x, x ∈ (s.cau.get c).claims)
    (h : ListsRest s) : ListsRest t := by
  intro hrt c
  have hrs := hr hrt
  rw [List.eq_nil_iff_forall_not_mem]
  intro y hy
  rcases hrec c y hy with ⟨src, ha⟩ | ⟨x, hx⟩
  · rw [accepts_resting s hrs] at ha; cases ha
  · rw [h hrs c] at hx; cases hx

/-- A list that gained no placed record had the record it shows. -/
theorem recorded_some {s t : State} {c : Channel} (h : Recorded s t c) :
    ∀ y ∈ (t.cau.get c).claims, (∃ src, accepts s src c = true) ∨ ∃ x, x ∈ (s.cau.get c).claims := by
  intro y hy
  rcases h y hy with ⟨src, ha, -⟩ | ⟨x, hx, -⟩
  · exact .inl ⟨src, ha⟩
  · exact .inr ⟨x, hx⟩

/-- A record that asks for the same respects the floor as before. -/
theorem claimFloored_of_asks {s t : State} {axle : Axle} {x y : Claim} (hs : t.store = s.store)
    (hf : t.bau.floor = true → s.bau.floor = true)
    (hn : ∀ src, brakeSetpoint s.store t.bau axle src = none → brakeSetpoint s.store s.bau axle src = none)
    (e : x.asks = y.asks) (h : ClaimFloored s axle x) : ClaimFloored t axle y := by
  have e1 : x.source = y.source := congrArg Prod.fst e
  have e2 : x.setpoint = y.setpoint := congrArg Prod.snd e
  unfold ClaimFloored at h ⊢
  rw [hs, ← e1, ← e2]
  exact ⟨fun g => h.1 (hf g), fun g => h.2 (hn _ g)⟩

/-- A move that leaves BAU's floor and given values alone. -/
theorem FloorClaims.of_same {s t : State} (hs : t.store = s.store) (hr : Resting t → Resting s)
    (hf : t.bau.floor = s.bau.floor) (hg : t.bau.given = s.bau.given)
    (hrec : ∀ c, ∀ y ∈ (t.cau.get c).claims, ∃ x ∈ (s.cau.get c).claims,
      (∃ k, c = .brk k) → x.asks = y.asks) (h : FloorClaims s) : FloorClaims t := by
  obtain ⟨h1, h2, h3, h4⟩ := h
  refine ⟨by unfold StoreOk at *; rwa [hs], listsRest_of hr (fun c y hy => ?_) h2, by rwa [hs], fun axle hx y hy => ?_⟩
  · obtain ⟨x, hx, -⟩ := hrec c y hy; exact .inr ⟨x, hx⟩
  · obtain ⟨x, hm, e⟩ := hrec _ y hy
    refine claimFloored_of_asks hs (fun g => hf ▸ g) (fun src => ?_) (e ⟨_, rfl⟩) (h4 axle hx x hm)
    exact brakeSetpoint_none _ _ _ _ hx src (fun k hk => by unfold givenValue at hk ⊢; rwa [hg])

/-- BAU's recompute keeps the claims' half of the floor law, whatever became of its inputs but the given values (R87). -/
theorem recompute_floorClaims (b : Bau) (s : State) (hg : b.given = s.bau.given) (h : FloorClaims s) :
    FloorClaims (bauRecompute { s with bau := b }) := by
  obtain ⟨h1, h2, h3, h4⟩ := h
  have hst : (bauRecompute { s with bau := b }).store = s.store := store_bauRecompute _
  have hbau := bauRecompute_bau { s with bau := b }
  refine ⟨by unfold StoreOk at *; rwa [hst],
    listsRest_of (fun h => resting_bauRecompute { s with bau := b } h) (fun c => ?_) h2, by rwa [hst], ?_⟩
  · refine recorded_some ?_
    rcases c with x | _ | _ | k | n
    · exact recorded_rewrite _ _ _ _ (cau_bauRecompute _ (.brk x))
    all_goals exact recorded_same _ _ _ (cau_bauRecompute _ _)
  · intro axle hx y hy
    rw [cau_bauRecompute] at hy
    obtain ⟨x, hm, e⟩ := asks_rewriteList _ _ _ hy
    have e1 : y.source = x.source := congrArg Prod.fst e
    have e2 : y.setpoint = (brakeHanded s.store b axle x.source).getD x.setpoint := congrArg Prod.snd e
    have hx4 := h4 axle hx x hm
    unfold ClaimFloored
    rw [hst, hbau]
    show (b.floor = true → _) ∧ (brakeSetpoint s.store b axle y.source = none → _)
    rw [e1, e2]
    cases hv : brakeSetpoint s.store b axle x.source with
    | none =>
      have hn : brakeHanded s.store b axle x.source = none := by unfold brakeHanded; rw [hv]; rfl
      rw [hn]
      have hn' := brakeSetpoint_none s.store s.bau b axle hx x.source
        (fun k hk => by unfold givenValue at hk ⊢; rwa [hg]) hv
      exact ⟨fun _ => hx4.2 hn', fun _ => hx4.2 hn'⟩
    | some v =>
      have hn : brakeHanded s.store b axle x.source = some (s.store.toDomain (.brk axle) (.num v)) := by
        unfold brakeHanded; rw [hv]; rfl
      rw [hn]
      exact ⟨fun hf => between_toDomain _ h3 axle _ (brakeSetpoint_floor _ _ _ _ _ hf hx hv), fun hc => by cases hc⟩

/-- A placement keeps it (R84, R85, R87). -/
theorem place_floorClaims (src : Source) (c : Channel) (s : State) (h : FloorClaims s) :
    FloorClaims (placeClaim src c s) := by
  by_cases ha : accepts s src c = true
  swap
  · rw [placeClaim_dropped s src c (by simpa using ha)]; exact h
  obtain ⟨h1, h2, h3, h4⟩ := h
  have hst := And.intro (store_placeClaim s src c) (resting_placeClaim s src c)
  have hb : (placeClaim src c s).bau = { s.bau with given := givenAfter s src c } := by
    unfold placeClaim; rw [if_pos ha]; rfl
  refine ⟨by unfold StoreOk at *; rwa [hst.1], listsRest_of hst.2 (fun d => recorded_some (recorded_place s src c d)) h2,
    by rw [hst.1]; exact h3, ?_⟩
  intro axle hx y hy
  have hkeep : ∀ z, z ∈ (s.cau.get (.brk axle)).claims → z.asks = y.asks → ClaimFloored (placeClaim src c s) axle y := by
    intro z hz e
    refine claimFloored_of_asks hst.1 (fun g => by rw [hb] at g; exact g) (fun src' => ?_) e (h4 axle hx z hz)
    rw [hb]
    exact brakeSetpoint_none _ _ _ _ hx src' (fun k => givenAfter_keeps s src c axle k)
  by_cases hd : Channel.brk axle = c
  · subst hd
    rw [placeClaim_cau s src _ ha] at hy
    rcases asks_placeList _ _ _ _ _ hy with e | ⟨z, hz, e⟩
    · have e1 : y.source = src := congrArg Prod.fst e
      have e2 : y.setpoint = _ := congrArg Prod.snd e
      unfold ClaimFloored
      rw [hst.1, hb, e1, e2]
      exact placed_floored s src axle hx h3 ha
    · exact hkeep z hz e
  · rw [placeClaim_cau_of_ne s src c _ hd] at hy
    exact hkeep y hy rfl

/-- Every move keeps it. -/
theorem Moves.floorClaims {s t : State} (h : Moves s t) : FloorClaims s → FloorClaims t := by
  induction h with
  | refl s => exact id
  | trans _ _ h1 h2 => exact h2 ∘ h1
  | @aside s t h =>
    exact FloorClaims.of_same h.store (Moves.aside h).resting.2 h.floor h.given
      (fun c y hy => ⟨y, by rwa [h.cau] at hy, fun _ => rfl⟩)
  | place src c s => exact place_floorClaims src c s
  | withdraw src c s =>
    refine FloorClaims.of_same rfl id rfl rfl (fun d y hy => ?_)
    by_cases hd : d = c
    · subst hd
      rw [withdrawClaim_frame] at hy
      obtain ⟨x, hx, e⟩ := asks_withdrawList src _ _ (by simpa using hy)
      exact ⟨x, hx, fun _ => e⟩
    · exact ⟨y, by rw [withdrawClaim_frame] at hy; simpa [hd] using hy, fun _ => rfl⟩
  | steer j s =>
    refine FloorClaims.of_same rfl id rfl rfl (fun d y hy => ?_)
    by_cases hd : d = .str
    · subst hd
      unfold runSteer at hy; rw [rewriteChannel_frame] at hy
      obtain ⟨x, hx, -⟩ := asks_rewriteList _ _ y (by simpa using hy)
      exact ⟨x, hx, fun ⟨k, hk⟩ => by cases hk⟩
    · refine ⟨y, ?_, fun _ => rfl⟩
      unfold runSteer at hy; rw [rewriteChannel_frame] at hy; simpa [hd] using hy
  | level h k s =>
    refine FloorClaims.of_same rfl id rfl rfl (fun d y hy => ?_)
    by_cases hd : d = .lvl k
    · subst hd
      rw [rewriteChannel_frame] at hy
      obtain ⟨x, hx, -⟩ := asks_rewriteList _ _ y (by simpa using hy)
      exact ⟨x, hx, fun ⟨k, hk⟩ => by cases hk⟩
    · refine ⟨y, ?_, fun _ => rfl⟩
      rw [rewriteChannel_frame] at hy; simpa [hd] using hy
  | brake b s h1 h2 h3 h4 => exact recompute_floorClaims b s h1
  | detected k src ch item s =>
    exact FloorClaims.of_same (detect_store _ _ _ _ _) (resting_detect s k src ch item) (by rw [bau_detect])
      (by rw [bau_detect]) (fun c y hy => ⟨y, by rwa [cau_detect] at hy, fun _ => rfl⟩)
  | kneeled k s => exact FloorClaims.of_same rfl id rfl rfl (fun c y hy => ⟨y, hy, fun _ => rfl⟩)
  | cleared s =>
    have hcl : ∀ c, (clearLists s).cau.get c = ⟨[], 0⟩ := by
      intro c; rw [clearLists_cau, cauReset, PerChannel_get_of]; rfl
    rintro ⟨h1, h2, h3, h4⟩
    refine ⟨h1, fun _ c => by rw [hcl c], h3, fun axle hx y hy => ?_⟩
    rw [hcl] at hy; cases hy

/-- BAU's taking of the doors and the kneel state keeps it (R86, R87). -/
theorem bauFloor_floorClaims (d : PerDoor Bool) (k : KneelState) (s : State) (h : FloorClaims s) :
    FloorClaims (bauFloor d k s) := by
  unfold bauFloor; split
  · exact FloorClaims.of_same (s := s) rfl id rfl rfl (fun c y hy => ⟨y, hy, fun _ => rfl⟩) h
  · exact recompute_floorClaims _ s rfl h

end Sys2Proof.Machine
end

