-- ==== Sys2Proof/Laws/Floor.lean ====
section
/-! SUPPORT. What BAU has been told of the doors and the kneel state, and the floor flag it gives: every move keeps both
(R86). -/

namespace Sys2Proof.Machine

open Sys2Proof.Safety

/-- From `s` to `t` plain announcements are added. -/
def Plainly (s t : State) : Prop := ∃ evs, t.inFlight = s.inFlight ++ evs ∧ evs.all plainEv = true

theorem Plainly.refl (s : State) : Plainly s s := ⟨[], (List.append_nil _).symm, rfl⟩

theorem Plainly.trans {s t u : State} (h : Plainly s t) (g : Plainly t u) : Plainly s u := by
  obtain ⟨x, hx, cx⟩ := h
  obtain ⟨y, hy, cy⟩ := g
  exact ⟨x ++ y, by rw [hy, hx, List.append_assoc], by rw [List.all_append, cx, cy]; rfl⟩

/-- A channel's announcement is plain. -/
theorem channelEvents_plain (st : Store) (c : Channel) (a b : List Claim) :
    (channelEvents st c a b).all plainEv = true := by
  unfold channelEvents; split <;> rfl

/-- A change of list. -/
theorem changeList_plainly (c : Channel) (new : ClaimList) (s : State) : Plainly s (changeList c new s) :=
  ⟨_, rfl, channelEvents_plain _ _ _ _⟩

/-- A detection. -/
theorem detect_plainly (k : FaultKind) (src : FaultSource) (ch : Option Channel) (item : List Byte) (s : State) :
    Plainly s (detect k src ch item s) := by
  unfold detect; split_ifs
  · exact .refl s
  · exact ⟨[], (List.append_nil _).symm, rfl⟩
  · exact ⟨[_], rfl, rfl⟩

/-- BAU's recompute. -/
theorem bauRecompute_plainly (s : State) : Plainly s (bauRecompute s) := by
  have hr : ∀ w x u, Plainly u (raiseSaturated w x u) := fun w x u => by
    unfold raiseSaturated; split
    · exact detect_plainly _ _ _ _ _
    · exact .refl u
  have hj : Plainly s (judgeSaturation s) := by
    have h0 : Plainly s { s with bau := { s.bau with saturated := saturationNow s.store s.bau } } :=
      ⟨[], (List.append_nil _).symm, rfl⟩
    exact ((h0.trans (hr _ _ _)).trans (hr _ _ _)).trans (hr _ _ _)
  exact ((hj.trans (changeList_plainly _ _ _)).trans (changeList_plainly _ _ _)).trans (changeList_plainly _ _ _)

/-- From `s` to `t` BAU's copies, the floor flag, the set of UNSECURED doors and the store stand, no set of doors is
announced, and the kneel state is the last announced, if any was. -/
structure ToldBy (s t : State) : Prop where
  floor : t.bau.floor = s.bau.floor
  doors : t.bau.doors = s.bau.doors
  kneel : t.bau.kneel = s.bau.kneel
  uns : t.dsv.unsecured = s.dsv.unsecured
  store : t.store = s.store
  added : ∃ evs, t.inFlight = s.inFlight ++ evs ∧ (∀ d, Ev.doors d ∉ evs) ∧ t.lku.kneel = kneelTold s.lku.kneel evs

/-- What one list of announcements tells, and then another. -/
theorem kneelTold_append (k : KneelState) (a b : List Ev) : kneelTold k (a ++ b) = kneelTold (kneelTold k a) b := by
  induction a generalizing k with
  | nil => rfl
  | cons e a ih => cases e <;> exact ih _

/-- The same of the doors. -/
theorem doorsTold_append (k : PerDoor Bool) (a b : List Ev) : doorsTold k (a ++ b) = doorsTold (doorsTold k a) b := by
  induction a generalizing k with
  | nil => rfl
  | cons e a ih => cases e <;> exact ih _

/-- No set of doors waits. -/
theorem doorsTold_none (k : PerDoor Bool) (a : List Ev) (h : ∀ d, Ev.doors d ∉ a) : doorsTold k a = k := by
  induction a generalizing k with
  | nil => rfl
  | cons e a ih =>
    have ih' := ih k fun d hd => h d (List.mem_cons_of_mem _ hd)
    cases e <;> first | exact ih' | exact absurd List.mem_cons_self (h _)

/-- Plain announcements tell no kneel state. -/
theorem kneelTold_plain (k : KneelState) (a : List Ev) (h : a.all plainEv = true) : kneelTold k a = k := by
  induction a generalizing k with
  | nil => rfl
  | cons e a ih =>
    rw [List.all_cons, Bool.and_eq_true] at h
    cases e <;> first | exact ih _ h.2 | cases h.1

/-- Plain announcements tell no set of doors. -/
theorem plain_nodoors (a : List Ev) (h : a.all plainEv = true) : ∀ d, Ev.doors d ∉ a := by
  intro d hd; have := List.all_eq_true.1 h _ hd; cases this

/-- Where only plain announcements are added. -/
theorem ToldBy.of_plain {s t : State} (h1 : t.bau.floor = s.bau.floor) (h2 : t.bau.doors = s.bau.doors)
    (h3 : t.bau.kneel = s.bau.kneel) (h4 : t.dsv.unsecured = s.dsv.unsecured) (h5 : t.store = s.store)
    (h6 : t.lku.kneel = s.lku.kneel) (h7 : Plainly s t) : ToldBy s t := by
  obtain ⟨evs, e, p⟩ := h7
  exact ⟨h1, h2, h3, h4, h5, evs, e, plain_nodoors _ p, by rw [kneelTold_plain _ _ p, h6]⟩

/-- Every move leaves BAU's copies, the floor flag and the UNSECURED doors alone, and announces the kneel state it
sets (R86, R124). -/
theorem Moves.toldBy {s t : State} (h : Moves s t) : ToldBy s t := by
  induction h with
  | refl s => exact .of_plain rfl rfl rfl rfl rfl rfl (.refl s)
  | trans _ _ a b =>
    obtain ⟨x, hx, nx, kx⟩ := a.added
    obtain ⟨y, hy, ny, ky⟩ := b.added
    refine ⟨b.floor.trans a.floor, b.doors.trans a.doors, b.kneel.trans a.kneel, b.uns.trans a.uns, b.store.trans a.store,
      x ++ y, by rw [hy, hx, List.append_assoc], ?_, by rw [ky, kx, kneelTold_append]⟩
    intro d hd
    rcases List.mem_append.1 hd with hd | hd
    · exact nx d hd
    · exact ny d hd
  | aside h => exact .of_plain h.floor h.doors h.kneelCopy h.unsecured h.store h.kneel h.added
  | place src c s =>
    unfold placeClaim; split
    · exact .of_plain rfl rfl rfl rfl rfl rfl ⟨_, rfl, channelEvents_plain _ _ _ _⟩
    · exact .of_plain rfl rfl rfl rfl rfl rfl (.refl s)
  | withdraw src c s => exact .of_plain rfl rfl rfl rfl rfl rfl ⟨_, rfl, channelEvents_plain _ _ _ _⟩
  | steer j s => exact .of_plain rfl rfl rfl rfl rfl rfl ⟨_, rfl, channelEvents_plain _ _ _ _⟩
  | level h k s => exact .of_plain rfl rfl rfl rfl rfl rfl ⟨_, rfl, channelEvents_plain _ _ _ _⟩
  | brake b s h1 h2 h3 h4 =>
    have e := bauRecompute_bau { s with bau := b }
    have m := (bauRecompute_mild { s with bau := b }).same
    have p := bauRecompute_plainly { s with bau := b }
    exact .of_plain (by rw [e]; exact h2) (by rw [e]; exact h3) (by rw [e]; exact h4) m.unsecured m.store
      (by rw [bauRecompute_lku]) p
  | detected k src ch item s =>
    exact .of_plain (by rw [bau_detect]) (by rw [bau_detect]) (by rw [bau_detect]) (by rw [detect_frame])
      (detect_store _ _ _ _ _) (by rw [detect_frame]) (detect_plainly _ _ _ _ _)
  | kneeled k s => exact ⟨rfl, rfl, rfl, rfl, rfl, [.kneel k], rfl, by simp, rfl⟩
  | cleared s =>
    refine .of_plain rfl rfl rfl rfl rfl rfl ⟨clearEvents s, rfl, ?_⟩
    unfold clearEvents; rw [List.all_flatMap, List.all_eq_true]
    intro c _; exact channelEvents_plain _ _ _ _

/-- So every move keeps what BAU has been told and the flag that it gives (R86). -/
theorem floorTold_moved {s t : State} (h : ToldBy s t) (hs : FloorTold s) : FloorTold t := by
  obtain ⟨a, b, c, d⟩ := hs
  obtain ⟨evs, e, n, k⟩ := h.added
  refine ⟨?_, ?_, ?_, ?_⟩
  · rw [h.doors, e, doorsTold_append, a, doorsTold_none _ _ n, h.uns]
  · rw [h.kneel, e, kneelTold_append, b, k]
  · rw [h.uns, h.store]; exact c
  · intro hd
    rw [h.floor, h.doors, h.kneel, h.store]
    exact d fun x hx => hd x (by rw [e]; exact List.mem_append_left _ hx)

/-- BAU's taking of the doors and the kneel state (R86). -/
theorem bauFloor_facts (d : PerDoor Bool) (k : KneelState) (s : State) :
    (bauFloor d k s).bau.doors = d ∧ (bauFloor d k s).bau.kneel = k ∧
    (bauFloor d k s).bau.floor = floorStands s.store d k ∧
    (bauFloor d k s).dsv.unsecured = s.dsv.unsecured ∧ (bauFloor d k s).lku.kneel = s.lku.kneel ∧
    (bauFloor d k s).store = s.store ∧ Plainly s (bauFloor d k s) := by
  unfold bauFloor; split
  · rename_i h; exact ⟨rfl, rfl, h, rfl, rfl, rfl, .refl _⟩
  · generalize hu : { s with bau := { s.bau with doors := d, kneel := k, floor := floorStands s.store d k } } = u
    have e := bauRecompute_bau u
    have m := (bauRecompute_mild u).same
    have p := bauRecompute_plainly u
    subst hu
    exact ⟨by rw [e], by rw [e], by rw [e], m.unsecured, by rw [bauRecompute_lku], m.store, p⟩

/-- The flag hangs on the store only by the doors that are fitted (R86). -/
theorem floorStands_store (st st' : Store) (d : PerDoor Bool) (k : KneelState)
    (h : ∀ n, d.get n = true → st.doorFitted n = true) (h' : ∀ n, d.get n = true → st'.doorFitted n = true) :
    floorStands st d k = floorStands st' d k := by
  have : ∀ n, (st.doorFitted n && d.get n) = (st'.doorFitted n && d.get n) := by
    intro n; cases hd : d.get n
    · simp
    · rw [h n hd, h' n hd]
  unfold floorStands; simp only [this]

/-- After a reset every fitted door is UNSECURED, so the flag stands (R86). -/
theorem floorStands_reset (st : Store) (h : 1 ≤ st.get 48) : floorStands st (doorsReset st) .normal = true := by
  have : st.doorFitted .d1 = true := by
    unfold Store.doorFitted Store.doorCount
    have : (st.get 48).toNat ≥ 1 := by omega
    exact decide_eq_true this
  unfold floorStands
  simp [doorsReset, this, Door.all]

end Sys2Proof.Machine
end

