-- ==== Sys2Proof/Laws/Steps.lean ====
section
/-! SUPPORT. What a step can do to the claims and to BAU's copies: chains of moves, and a few changes named in `Law`. -/

namespace Sys2Proof.Machine

open Sys2Proof.Safety

variable (s : State)

/-! Field link -/

theorem withFlc_moves (f : Flc) : Moves s (withFlc f s) := .of_eq rfl rfl rfl rfl rfl rfl rfl rfl

theorem cycleExpiry_moves : Moves s (cycleExpiry s) := by
  unfold cycleExpiry; split
  · exact .refl s
  · split <;> exact withFlc_moves _ _

theorem setNode_moves (n : Node) (r : NodeRec) : Moves s (setNode n r s) :=
  .aside ⟨rfl, rfl, rfl, rfl, rfl, rfl, rfl, rfl, rfl, rfl, _, rfl, by split <;> rfl⟩

theorem takeCode_moves (t : Txn) (code : Nat) (m1 m2 : Word) : Moves s (takeCode t code m1 m2 s) := by
  unfold takeCode; split
  · exact .refl s
  · exact .after (.detected _ _ _ _ _) (withFlc_moves _ _)

theorem echoEnd_moves (r m : Bool) : Moves s (echoEnd r m s) := by
  unfold echoEnd; simp only; split
  · exact (withFlc_moves _ _).trans (finishTest_moves _ _)
  · exact withFlc_moves _ _

theorem judgeEcho_moves (t : Txn) (r m : Bool) : Moves s (judgeEcho t r m s) := by
  unfold judgeEcho; split
  · exact echoEnd_moves _ _ _
  · exact .refl s

theorem emptyHistory_moves : Moves s (emptyHistory s) :=
  .after (announce_moves _ _ rfl) (.of_eq rfl rfl rfl rfl rfl rfl rfl rfl)

theorem brakeEnd_moves (x : Axle) (n : Nat) (v : Option Int) : Moves s (brakeEnd x n v s) := mruRecompute_moves _ _

theorem noMeasure_moves (n : Node) (k : CmdKind) : Moves s (noMeasure n k s) := by
  unfold noMeasure; split
  · exact brakeEnd_moves _ _ _ _
  · exact emptyHistory_moves _
  · exact .refl s

theorem tellFollow_moves (n : Node) : Moves s (tellFollow n s) := by
  unfold tellFollow; split
  · exact announce_moves _ _ rfl
  · exact .refl s

theorem followMonitor_moves (t : Txn) (tol a : Int) (item : List Byte) : Moves s (followMonitor t tol a item s) := by
  unfold followMonitor; simp only; split
  · exact .after (tellFollow_moves _ _) (.after (.detected _ _ _ _ _) (withFlc_moves _ _))
  · exact withFlc_moves _ _

theorem jointSample_moves (th : Int) : Moves s (jointSample th s) :=
  .after (announce_moves _ _ (by unfold thetaEvents; split <;> rfl)) (.of_eq rfl rfl rfl rfl rfl rfl rfl rfl)

theorem bauLoad_moves (x : Axle) (l : Int) : Moves s (bauLoad x l s) := by
  unfold bauLoad; split
  · exact .refl s
  · exact .brake _ s rfl rfl rfl rfl

theorem bauPressure_moves (k : Corner) (p : Int) (g : Bool) : Moves s (bauPressure k p g s) := by
  have h : Moves s { s with bau := bauStored k p g s.bau } :=
    .aside ⟨rfl, rfl, rfl, rfl, rfl, rfl, rfl, rfl, rfl, rfl, [], (List.append_nil _).symm, rfl⟩
  exact h.trans (bauLoad_moves _ _ _)

theorem levelResponse_moves (k : Corner) (h p : Int) : Moves s (levelResponse k h p s) := by
  have hc : ∀ (c : CornerState) u, Moves u (setCorner k c u) := fun c u => .of_eq rfl rfl rfl rfl rfl rfl rfl rfl
  exact .after (judgeKneel_moves _ _) (.after (hc _ _) (bauPressure_moves s _ _ _))

theorem keepMeasures_moves (n : Node) (a b : Int) : Moves s (keepMeasures n a b s) := withFlc_moves _ _

theorem handOn_moves (t : Txn) (code : Nat) (m1 m2 : Word) : Moves s (handOn t code m1 m2 s) := by
  unfold handOn; split
  · exact .after (followMonitor_moves _ _ _ _ _) (.after (brakeEnd_moves _ _ _ _) (keepMeasures_moves _ _ _ _))
  · exact .after (followMonitor_moves _ _ _ _ _) (keepMeasures_moves _ _ _ _)
  · exact .after (jointSample_moves _ _) (keepMeasures_moves _ _ _ _)
  · exact .after (levelResponse_moves _ _ _ _) (keepMeasures_moves _ _ _ _)

theorem goodResponse_moves (t : Txn) (code : Nat) (m1 m2 : Word) : Moves s (goodResponse t code m1 m2 s) := by
  have h : ∀ u, Moves u (if t.kind = .echo then echoResponse t code m1 u else setResponse t code m1 m2 u) := fun u => by
    split
    · exact .after (noMeasure_moves _ _ _) (echoEnd_moves _ _ _)
    · unfold setResponse; split
      · exact noMeasure_moves _ _ _
      · exact handOn_moves _ _ _ _ _
  exact .after (h _) (.after (takeCode_moves _ _ _ _ _) (setNode_moves s _ _))

theorem becomeLost_moves (t : Txn) (k : MissKind) : Moves s (becomeLost t k s) := by
  have h : ∀ n u, Moves u (raiseCapacity n u) := fun n u => by
    unfold raiseCapacity; split
    · split
      · exact .detected _ _ _ _ _
      · exact .refl _
    · exact .refl _
  exact .after (h _ _) (.detected _ _ _ _ s)

theorem missResponse_moves (t : Txn) (k : MissKind) : Moves s (missResponse t k s) := by
  unfold missResponse; simp only
  refine .after (noMeasure_moves _ _ _) ?_
  have h1 := (setNode_moves s t.node (nodeMissed s.store.missLimit (s.flc.nodes.get t.node))).trans
    (.detected .fieldMiss (.node t.node) (some t.node.channel) (commandItem t (missCode k)) _)
  refine .after (judgeEcho_moves _ t false false) ?_
  split
  · exact .after (becomeLost_moves _ _ _) h1
  · exact h1

theorem endTxn_moves : Moves s (endTxn s) := withFlc_moves _ _

theorem afterTxn_moves : Moves s (afterTxn s) := by
  unfold afterTxn; split
  · exact finishTest_moves _ _
  · exact .refl s

theorem fieldResponse_moves (code : Nat) (m1 m2 : Word) : Moves s (fieldResponse code m1 m2 s) := by
  unfold fieldResponse; split
  · exact .refl s
  · split_ifs
    · exact .refl s
    · exact .after (afterTxn_moves _) (.after (goodResponse_moves _ _ _ _ _) (endTxn_moves _))
    · exact .after (afterTxn_moves _) (.after (judgeEcho_moves _ _ _ _) (endTxn_moves _))

theorem windowEnd_moves (k : MissKind) : Moves s (windowEnd k s) := by
  unfold windowEnd; split
  · exact .refl s
  · split_ifs
    · exact .refl s
    · exact .after (afterTxn_moves _) (.after (missResponse_moves _ _ _) (endTxn_moves _))
    · exact .after (afterTxn_moves _) (.after (judgeEcho_moves _ _ _ _) (endTxn_moves _))

theorem shutdownAck_moves (code : Fin 8) : Moves s (shutdownAck code s) := by
  unfold shutdownAck; split
  · exact .refl s
  · split_ifs
    · exact .refl s
    · exact endTxn_moves _
    · exact withFlc_moves _ _

theorem ackExpiry_moves (k : MissKind) : Moves s (ackExpiry k s) := by
  unfold ackExpiry; split
  · exact .refl s
  · split_ifs
    · exact .refl s
    · split
      · exact .after (.detected _ _ _ _ _) (.after (withFlc_moves _ _) (endTxn_moves _))
      · exact .after (.detected _ _ _ _ _) (endTxn_moves _)

theorem readmit_moves : Moves s (readmit s) := by
  have h : ∀ (ns : List Node) u, Moves s u → Moves s (ns.foldl (fun s n => readmitNode n s) u) := by
    intro ns
    induction ns with
    | nil => exact fun u h => h
    | cons n ns ih =>
      intro u h
      have hn : ∀ v, Moves v (readmitNode n v) := fun v => by
        unfold readmitNode; split
        · exact setNode_moves _ _ _
        · exact .refl v
      exact ih _ (h.andThen hn)
  exact h _ s (.refl s)

theorem refitNode_moves (n : Node) : Moves s (refitNode n s) := .after (setNode_moves _ _ _) (withFlc_moves _ _)

/-! Lanes, timers, doors -/

theorem takeSetpoint_moves (x : Lane) (sp : LaneSetpoint) : Moves s (takeSetpoint x sp s) := by
  unfold takeSetpoint
  refine .after (announce_moves _ _ ?_) ?_
  · unfold voteEvents
    simp only [List.all_append, Bool.and_eq_true]
    refine ⟨⟨⟨⟨⟨⟨⟨?_, ?_⟩, ?_⟩, ?_⟩, ?_⟩, ?_⟩, ?_⟩, ?_⟩ <;> split <;> rfl
  · unfold raiseDisagree; split
    · exact .of_eq rfl rfl rfl rfl rfl rfl rfl rfl
    · exact .after (.detected _ _ _ _ _) (.of_eq rfl rfl rfl rfl rfl rfl rfl rfl)

theorem stage1Expiry_moves (x : Lane) : Moves s (stage1Expiry x s) := by
  unfold stage1Expiry; split
  · exact .after (.detected _ _ _ _ _) (.of_eq rfl rfl rfl rfl rfl rfl rfl rfl)
  · exact .refl s

theorem stage2Expiry_moves (x : Lane) : Moves s (stage2Expiry x s) := by
  unfold stage2Expiry; split
  · unfold raiseBothLost
    have h : Moves s (detect .laneLost (.port (lanePort x)) none (laneItem (s.lv.lanes.get x).stored)
        { s with lv := setLane x .lost .stopped s.lv }) :=
      .after (.detected _ _ _ _ _) (.of_eq rfl rfl rfl rfl rfl rfl rfl rfl)
    split
    · exact .after (.detected _ _ _ _ _) h
    · exact h
  · exact .refl s

theorem holdExpiry_moves (c : Channel) (src : Source) : Moves s (holdExpiry c src s) := by
  unfold holdExpiry; split
  · exact .after (.withdraw _ _ _) (.of_eq rfl rfl rfl rfl rfl rfl rfl rfl)
  · exact .refl s

theorem settleExpiry_moves : Moves s (settleExpiry s) := by
  unfold settleExpiry; split
  · exact .after (setAtRest_moves _ _) (.of_eq rfl rfl rfl rfl rfl rfl rfl rfl)
  · exact .refl s

theorem persistExpiry_moves (k : Corner) : Moves s (persistExpiry k s) := by
  unfold persistExpiry; split
  · exact .of_eq rfl rfl rfl rfl rfl rfl rfl rfl
  · exact .refl s

theorem valveRunExpiry_moves (k : Corner) : Moves s (valveRunExpiry k s) := by
  unfold valveRunExpiry; split
  · exact .after (.detected _ _ _ _ _) (.of_eq rfl rfl rfl rfl rfl rfl rfl rfl)
  · exact .refl s

theorem kneelExpiry_moves : Moves s (kneelExpiry s) := by
  unfold kneelExpiry; split
  · exact .after (.kneeled _ _) (.detected _ _ _ _ _)
  · exact .refl s

theorem disagreeExpiry_moves (n : Door) : Moves s (disagreeExpiry n s) := by
  unfold disagreeExpiry; split
  · exact .after (.detected _ _ _ _ _) (.of_eq rfl rfl rfl rfl rfl rfl rfl rfl)
  · exact .refl s

/-! Configuration -/

/-- What the owning block does with a write that leaves the doors alone (R180). -/
theorem blockActs_moves (n : Nat) (old : Store) (h : n ≠ 48) : Moves s (blockActs n old s) := by
  have hs : ∀ j, Moves s { s with sju := j } := fun _ => .of_eq rfl rfl rfl rfl rfl rfl rfl rfl
  have ha : ∀ u, Moves u (angleCleared u) := fun u => by
    unfold angleCleared; split
    · exact .refl _
    · exact setCentring_moves _ _
  unfold blockActs; split_ifs
  · exact .refl s
  · exact bauLoad_moves _ _ _
  · exact hs _
  · exact hs _
  · exact .refl s
  · exact refitNode_moves _ _
  · exact .refl s
  · exact .after (ha _) (.after (emptyHistory_moves _) (refitNode_moves s _))
  · exact formHLane_moves _ _ rfl
  · exact .refl s
  · exact emptyHistory_moves _
  · exact .refl s

/-- A write of the door count leaves the doors alone or forms them anew (R129). -/
theorem blockActs_doors (old : Store) : blockActs 48 old s = s ∨ blockActs 48 old s = dsvFitting s := by
  by_cases h : s.store.get 48 = old.get 48
  · exact .inl (by simp [blockActs, h])
  · exact .inr (by simp [blockActs, h])

/-- What a change of the store announces of the rest values brings BAU nothing (R2). -/
theorem restEvents_plain (st : Store) : (restEvents s st).all plainEv = true := by
  unfold restEvents
  rw [List.all_flatMap, List.all_eq_true]
  intro c _; split <;> rfl

/-- What forming the door states leaves: the set of UNSECURED doors is announced just when it changed (R133). -/
theorem formDoors_fields (d : Dsv) :
    (formDoors d s).store = s.store ∧ (formDoors d s).mode = s.mode ∧ (formDoors d s).cau = s.cau ∧
    (formDoors d s).bau = s.bau ∧ (formDoors d s).lku = s.lku ∧
    (formDoors d s).dsv.unsecured = (dsvFormed s.store d).unsecured ∧
    ((formDoors d s).dsv.unsecured = s.dsv.unsecured ∧ (formDoors d s).inFlight = s.inFlight ∨
      (formDoors d s).inFlight = s.inFlight ++ [.doors (dsvFormed s.store d).unsecured]) := by
  unfold formDoors; split
  · rename_i h; exact ⟨rfl, rfl, rfl, rfl, rfl, rfl, .inl ⟨h, rfl⟩⟩
  · exact ⟨rfl, rfl, rfl, rfl, rfl, rfl, .inr rfl⟩

/-! Steps -/

/-- The changes that a step is made of are kept: moves, the doors' record, mode changes at a request, a taken write, the
lock of a passing validation, resets and the tick. -/
structure Law (P : State → Prop) : Prop where
  moves : ∀ s t, Moves s t → P s → P t
  told : ∀ e rest t, t.inFlight = e :: rest → P t → P (bauTold e { t with inFlight := rest })
  doors : ∀ d s, P s → P (formDoors d s)
  mode : ∀ m s, (m = .config ∨ m = .service → Resting s) → m ≠ .powerup → P s → P (setMode m s)
  enter : ∀ s, s.mode = .powerup → P s → P (enterConfig s)
  write : ∀ n v0 v1 v2 st s, s.mode = .config → s.mc.locked = false → s.store.write n v0 v1 v2 = some st → P s →
    P (takeWrite n st s)
  locks : ∀ s, validation s = none → P s → P { s with mc := { s.mc with ready := ⟨none, none⟩, locked := true } }
  warm : ∀ c s, P s → P (warmReset c s)
  power : ∀ s, P s → P (powerOn s)
  ticked : ∀ s, P s → P (tickTimers s)

namespace Law

variable {P : State → Prop} (L : Law P) {s : State}
include L

/-- The announcements taken. -/
theorem settled (n : Nat) (h : P s) : P (settle n s) :=
  settle_induction P (fun e rest t he hp => L.moves _ _ (handle_moves _ e) (L.told e rest t he hp)) n s h

/-- A step completed. -/
theorem completed (h : P s) : P (complete s) := complete_induction _ P L.moves L.told h

/-- A step completed after a chain of moves. -/
theorem moved {t : State} (m : Moves s t) (h : P s) : P (complete t) := L.completed (L.moves _ _ m h)

/-- A change that touches none of what `Moves` follows. -/
theorem same {t : State} (h : P s) (h1 : t.store = s.store) (h2 : t.mode = s.mode)
    (hl : t.mc.locked = s.mc.locked) (h3 : t.cau = s.cau) (h4 : t.bau = s.bau) (h5 : t.dsv.unsecured = s.dsv.unsecured) (h6 : t.lku.kneel = s.lku.kneel)
    (h7 : t.inFlight = s.inFlight) : P t := L.moves _ _ (.of_eq h1 h2 hl h3 h4 h5 h6 h7) h

/-- A request keeps what its owner's part keeps. -/
theorem request {p : Port} {r kind : Byte} {ports : Port → Bool} {owner : State → State × Option Reply}
    (h : P s) (ho : ∀ t, P t → P (owner t).1) : P (Sys2Proof.Machine.request p r kind ports owner s) := by
  have hc : P (closeTransfer p s) := L.same h rfl rfl rfl rfl rfl rfl rfl rfl
  have ha : ∀ k rep t, P t → P (answer p k rep t) := fun k rep t ht => L.same ht rfl rfl rfl rfl rfl rfl rfl rfl
  unfold Sys2Proof.Machine.request; split_ifs
  · exact h
  · exact ha _ _ _ hc
  · exact ha _ _ _ hc
  · exact ha _ _ _ hc
  · have hw := ho _ hc
    cases e : owner (closeTransfer p s) with
    | mk t rep =>
      rw [e] at hw
      cases rep with
      | none => exact hw
      | some rep => exact ha _ _ _ hw

theorem ownConfigWrite (item v0 v1 v2 : Byte) (h : P s) : P (Sys2Proof.Machine.ownConfigWrite item v0 v1 v2 s).1 := by
  unfold Sys2Proof.Machine.ownConfigWrite; split_ifs with hm hi hl
  · exact h
  · exact h
  · exact h
  · split
    · exact h
    · rename_i st hw
      exact L.completed (L.write _ _ _ _ _ _ (not_not.1 hm) (by simpa using hl) hw h)

theorem ownEnterRun (x : Lane) (d : Word) (h : P s) : P (Sys2Proof.Machine.ownEnterRun x d s).1 := by
  unfold Sys2Proof.Machine.ownEnterRun; split_ifs
  · unfold matchRun; split
    · exact L.same h rfl rfl rfl rfl rfl rfl rfl rfl
    · split
      · exact L.same h rfl rfl rfl rfl rfl rfl rfl rfl
      · rename_i hv
        exact L.completed (L.mode _ _ (by simp) (by simp) (L.locks _ hv h))
  · exact h
  · exact h

theorem ownModeRequest (x : Lane) (code : Byte) (h : P s) : P (Sys2Proof.Machine.ownModeRequest x code s).1 := by
  unfold Sys2Proof.Machine.ownModeRequest; split
  · exact h
  · exact h
  · exact h
  · exact h
  · exact h
  · split_ifs with h1 h2
    · exact h
    · exact L.completed (L.mode _ _ (fun _ => .inr (.inl h2)) (by simp) h)
    · exact h
  · split_ifs with h1 h2
    · exact h
    · exact L.completed (L.mode _ _ (fun _ => .inr (.inr h2)) (by simp) h)
    · exact h
  · split_ifs
    · exact h
    · unfold requestStandby; split_ifs
      · exact L.same h rfl rfl rfl rfl rfl rfl rfl rfl
      · exact L.completed (L.mode _ _ (by simp) (by simp) (L.same h rfl rfl rfl rfl rfl rfl rfl rfl))
      · exact L.same h rfl rfl rfl rfl rfl rfl rfl rfl
    · exact h

theorem ownRecover (h : P s) : P (Sys2Proof.Machine.ownRecover s).1 := by
  have hj : P (recoverJudged s) := L.settled _ (L.moves _ _ (readmit_moves s) h)
  generalize hr : recoverJudged s = r at hj
  unfold Sys2Proof.Machine.ownRecover
  rw [hr]
  split
  · exact h
  · cases recoverUnmet r with
    | some n => exact L.completed hj
    | none => exact L.completed (L.mode _ _ (by simp) (by simp) hj)

theorem ownClearFault (ks : BitVec 24) (h : P s) : P (Sys2Proof.Machine.ownClearFault ks s).1 := by
  unfold Sys2Proof.Machine.ownClearFault; split_ifs
  · exact h
  · exact h
  · have hf : P { s with fu := fuCleared s.store ks s.fu } := L.same h rfl rfl rfl rfl rfl rfl rfl rfl
    refine L.moved (announce_moves _ _ ?_) hf
    unfold clearedEvents; split <;> rfl

theorem ownWarmReset (x : Lane) (h : P s) : P (Sys2Proof.Machine.ownWarmReset x s).1 := by
  unfold Sys2Proof.Machine.ownWarmReset; split_ifs
  · exact L.same h rfl rfl rfl rfl rfl rfl rfl rfl
  · exact L.warm _ _ h
  · exact L.same h rfl rfl rfl rfl rfl rfl rfl rfl

theorem ownTestField (n : Byte) (w : Word) (c : Byte) (h : P s) : P (Sys2Proof.Machine.ownTestField n w c s).1 := by
  unfold Sys2Proof.Machine.ownTestField; split_ifs
  · exact h
  · exact h
  · split
    · exact h
    · exact L.same h rfl rfl rfl rfl rfl rfl rfl rfl

theorem ownDoor (door : Byte) (act : Door → State → State) (ha : ∀ n t, Moves t (act n t)) (h : P s) :
    P (Sys2Proof.Machine.ownDoor door act s).1 := by
  unfold Sys2Proof.Machine.ownDoor; split_ifs
  · exact h
  · split
    · exact h
    · exact L.moved (ha _ _) h

theorem ownOperating (data : State → List Byte) (act : State → State) (ha : ∀ t, Moves t (act t)) (h : P s) :
    P (Sys2Proof.Machine.ownOperating data act s).1 := by
  unfold Sys2Proof.Machine.ownOperating; split_ifs
  · exact h
  · exact L.moved (ha _) h

theorem sampleContacts (closed : PerDoor Bool) (h : P s) : P (Sys2Proof.Machine.sampleContacts closed s) := by
  have hf : ∀ (ns : List Door) t, P t →
      P (ns.foldl (fun s n => settle settleLimit (sampleContact n (closed.get n) s)) t) := by
    intro ns
    induction ns with
    | nil => exact fun t h => h
    | cons n ns ih =>
      intro t ht
      refine ih _ (L.settled _ ?_)
      unfold sampleContact; split
      · exact L.same ht rfl rfl rfl rfl rfl rfl rfl rfl
      · exact L.doors _ _ ht
  exact hf _ _ h

theorem staleExpiry (h : P s) : P (Sys2Proof.Machine.staleExpiry s) := by
  unfold Sys2Proof.Machine.staleExpiry; split
  · have hd : P (drawFree s) := L.same h rfl rfl rfl rfl rfl rfl rfl rfl
    exact L.doors _ _ (L.moves _ _ (.detected _ _ _ _ _) hd)
  · exact h

/-- What the changes of `Law` keep, every step that goes on keeps. -/
theorem kept : Kept P := by
  intro s t h hs
  unfold step at hs
  split at hs
  · cases hs; exact L.completed (L.ticked _ h)
  · rename_i c rest hp
    have h : P { s with pending := rest } := L.same h rfl rfl rfl rfl rfl rfl rfl rfl
    generalize { s with pending := rest } = s at h hs
    have ret : ∀ {u}, goes u = .next t → P u → P t := fun e hu => by cases e; exact hu
    cases c with
    | nop => exact ret hs (L.request h fun t ht => ht)
    | readNotice p =>
      refine ret hs (L.request h fun t ht => ?_)
      unfold ownReadNotice; split
      · exact ht
      · exact L.same ht rfl rfl rfl rfl rfl rfl rfl rfl
    | readClaim => exact ret hs (L.request h fun t ht => ht)
    | readState => exact ret hs (L.request h fun t ht => L.same ht rfl rfl rfl rfl rfl rfl rfl rfl)
    | setpoint =>
      refine ret hs (L.request h fun t ht => ?_)
      unfold ownSetpoint; split
      · exact L.moved (takeSetpoint_moves _ _ _) ht
      · exact ht
    | configWrite => exact ret hs (L.request h fun t ht => L.ownConfigWrite _ _ _ _ ht)
    | configRead => exact ret hs (L.request h fun t ht => ht)
    | enterRun => exact ret hs (L.request h fun t ht => L.ownEnterRun _ _ ht)
    | modeRequest => exact ret hs (L.request h fun t ht => L.ownModeRequest _ _ ht)
    | recover => exact ret hs (L.request h fun t ht => L.ownRecover ht)
    | ackCapture => exact ret hs (L.request h fun t ht => L.same ht rfl rfl rfl rfl rfl rfl rfl rfl)
    | readCapture => exact ret hs (L.request h fun t ht => L.same ht rfl rfl rfl rfl rfl rfl rfl rfl)
    | readFaults => exact ret hs (L.request h fun t ht => ht)
    | clearFault => exact ret hs (L.request h fun t ht => L.ownClearFault _ ht)
    | warmReset => exact ret hs (L.request h fun t ht => L.ownWarmReset _ ht)
    | testField => exact ret hs (L.request h fun t ht => L.ownTestField _ _ _ ht)
    | doorStatus => exact ret hs (L.request h fun t ht => L.completed (L.doors _ _ ht))
    | doorOpen => exact ret hs (L.request h fun t ht => L.ownDoor _ _ (fun n t => .place _ _ t nofun) ht)
    | doorClose => exact ret hs (L.request h fun t ht => L.ownDoor _ _ (fun n t => .withdraw _ _ t) ht)
    | haltOn => exact ret hs (L.request h fun t ht => L.ownOperating _ _ (fun t => placeClaims_moves t _ _ nofun) ht)
    | haltOff => exact ret hs (L.request h fun t ht => L.ownOperating _ _ (fun t => withdrawClaims_moves t _ _) ht)
    | kneelOn => exact ret hs (L.request h fun t ht => L.ownOperating _ _ (fun t => placeClaims_moves t _ _ nofun) ht)
    | kneelOff => exact ret hs (L.request h fun t ht => L.ownOperating _ _ (fun t => withdrawClaims_moves t _ _) ht)
    | badFrame p clocks first =>
      simp only [exec, execBadFrame] at hs; split at hs
      · exact ret hs h
      · have ha : P (answer p (frameKind clocks first) ⟨.badFrame, []⟩ (closeTransfer p s)) :=
          L.same h rfl rfl rfl rfl rfl rfl rfl rfl
        exact ret hs (L.moved (.detected _ _ _ _ _) ha)
    | rstnWarmReset =>
      simp only [exec, execRstnWarmReset] at hs; split at hs
      · exact ret hs h
      · exact ret hs (L.warm _ _ h)
    | powerOnReset => exact ret hs (L.power _ h)
    | initialisationComplete =>
      simp only [exec, execInitialisationComplete] at hs; split at hs
      · rename_i hm; exact ret hs (L.completed (L.enter _ hm h))
      · exact ret hs h
    | laneStage1Expiry => exact ret hs (L.moved (stage1Expiry_moves _ _) h)
    | laneStage2Expiry => exact ret hs (L.moved (stage2Expiry_moves _ _) h)
    | holdLimitExpiry => exact ret hs (L.moved (holdExpiry_moves _ _ _) h)
    | fieldCycleExpiry => exact ret hs (L.moved (cycleExpiry_moves _) h)
    | fieldResponseReceived => exact ret hs (L.moved (fieldResponse_moves _ _ _ _) h)
    | responseWindowEnd => exact ret hs (L.moved (windowEnd_moves _ _) h)
    | shutdownAckReceived => exact ret hs (L.moved (shutdownAck_moves _ _) h)
    | tAckExpiry => exact ret hs (L.moved (ackExpiry_moves _ _) h)
    | settleTimerExpiry => exact ret hs (L.moved (settleExpiry_moves _) h)
    | persistenceTimerExpiry => exact ret hs (L.moved (persistExpiry_moves _ _) h)
    | valveRunTimerExpiry => exact ret hs (L.moved (valveRunExpiry_moves _ _) h)
    | kneelTimerExpiry => exact ret hs (L.moved (kneelExpiry_moves _) h)
    | contactSample =>
      simp only [exec, execContactSample] at hs; split at hs
      · exact ret hs h
      · exact ret hs (L.completed (L.sampleContacts _ h))
    | doorStalenessExpiry => exact ret hs (L.completed (L.staleExpiry h))
    | doorDisagreeExpiry => exact ret hs (L.moved (disagreeExpiry_moves _ _) h)
    | pairingWindowExpiry w =>
      cases w <;> exact ret hs (L.same h rfl rfl rfl rfl rfl rfl rfl rfl)
    | readyMarkLapse =>
      refine ret hs ?_
      unfold markLapse; split
      · exact L.same h rfl rfl rfl rfl rfl rfl rfl rfl
      · exact h
    | csnFallingEdge => exact ret hs (L.same h rfl rfl rfl rfl rfl rfl rfl rfl)
    | unknownKindFrame p k =>
      simp only [exec, execUnknownKindFrame] at hs; split_ifs at hs
      · exact ret hs h
      · exact ret hs (L.same h rfl rfl rfl rfl rfl rfl rfl rfl)
      · exact ret hs (L.same h rfl rfl rfl rfl rfl rfl rfl rfl)

end Law

end Sys2Proof.Machine
end

