-- ==== Sys2Proof/Laws/Store.lean ====
section
/-! SUPPORT. The configuration store: a write keeps the canonical form, and what is read after a write. -/

namespace Sys2Proof.Machine

/-- The first number of a list lies above `n`. -/
def headAbove (n : Nat) : List (Nat × Int) → Prop
  | [] => True
  | p :: _ => n < p.1

theorem storeWf_cons (p : Nat × Int) (l : List (Nat × Int)) :
    storeWf (p :: l) = true ↔ p.2 ≠ itemDefault p.1 ∧ headAbove p.1 l ∧ storeWf l = true := by
  cases l with
  | nil => simp [storeWf, headAbove]
  | cons q l => simp [storeWf, headAbove, and_assoc]

theorem headAbove_putItem (k n : Nat) (v : Int) (l : List (Nat × Int)) (hk : k < n) (h : headAbove k l)
    (hl : storeWf l = true) : headAbove k (putItem n v l) := by
  cases l with
  | nil => unfold putItem; split <;> simp [headAbove, hk]
  | cons p l =>
    obtain ⟨m, w⟩ := p
    have hm : k < m := h
    have hp := (storeWf_cons _ _).1 hl
    unfold putItem
    split
    · simpa [headAbove] using hm
    · split
      · split
        · cases l with
          | nil => simp [headAbove]
          | cons q l =>
            have h2 : m < q.1 := hp.2.1
            simp only [headAbove]; omega
        · simpa [headAbove] using hk
      · split <;> simp [headAbove, hm, hk]

/-- Every write keeps the canonical form. -/
theorem storeWf_putItem (n : Nat) (v : Int) (l : List (Nat × Int)) (hl : storeWf l = true) :
    storeWf (putItem n v l) = true := by
  induction l with
  | nil => unfold putItem; split <;> simp_all [storeWf]
  | cons p l ih =>
    obtain ⟨m, w⟩ := p
    have hp := (storeWf_cons _ _).1 hl
    unfold putItem
    split
    · rename_i hlt
      exact (storeWf_cons _ _).2 ⟨hp.1, headAbove_putItem m n v l hlt hp.2.1 hp.2.2, ih hp.2.2⟩
    · split
      · rename_i hmn
        subst hmn
        split
        · exact hp.2.2
        · rename_i hv
          exact (storeWf_cons _ _).2 ⟨hv, hp.2.1, hp.2.2⟩
      · split
        · exact hl
        · rename_i h1 h2 hv
          exact (storeWf_cons _ _).2 ⟨hv, by simp only [headAbove]; omega, hl⟩

theorem Store.put_wf (st : Store) (n : Nat) (v : Int) (h : storeWf st.items = true) :
    storeWf (st.put n v).items = true := storeWf_putItem n v st.items h

theorem Store.bind_wf (st : Store) (n : Nat) (v : Int) (h : storeWf st.items = true) :
    storeWf (st.bind n v).items = true := by
  unfold Store.bind
  split_ifs <;> first | exact Store.put_wf _ _ _ h | exact Store.put_wf _ _ _ (Store.put_wf _ _ _ h)

/-- A taken write keeps the canonical form of the store. -/
theorem Store.write_wf (st st' : Store) (n : Nat) (v0 v1 v2 : Byte) (h : storeWf st.items = true)
    (hw : st.write n v0 v1 v2 = some st') : storeWf st'.items = true := by
  unfold Store.write at hw
  split at hw
  · obtain ⟨v, _, rfl⟩ := Option.map_eq_some_iff.1 hw
    exact Store.put_wf st n v h
  · obtain ⟨v, _, rfl⟩ := Option.map_eq_some_iff.1 hw
    exact Store.bind_wf st n v h

/-- What a list answers for a number. -/
def lookupItem (l : List (Nat × Int)) (n : Nat) : Int :=
  ((l.find? fun p => p.1 == n).map Prod.snd).getD (itemDefault n)

theorem Store.get_eq_lookup (st : Store) (n : Nat) : st.get n = lookupItem st.items n := rfl

theorem lookupItem_cons (p : Nat × Int) (l : List (Nat × Int)) (n : Nat) :
    lookupItem (p :: l) n = if p.1 = n then p.2 else lookupItem l n := by
  by_cases h : p.1 = n
  · simp [lookupItem, h]
  · simp [lookupItem, h]

theorem lookupItem_above (l : List (Nat × Int)) (n : Nat) (h : headAbove n l) (hl : storeWf l = true) :
    lookupItem l n = itemDefault n := by
  induction l with
  | nil => rfl
  | cons p l ih =>
    have hp := (storeWf_cons _ _).1 hl
    have hn : n < p.1 := h
    rw [lookupItem_cons, if_neg (by omega)]
    refine ih ?_ hp.2.2
    cases l with
    | nil => trivial
    | cons q l => have h2 : p.1 < q.1 := hp.2.1; simp only [headAbove]; omega

theorem lookupItem_putItem (n m : Nat) (v : Int) (l : List (Nat × Int)) (hl : storeWf l = true) :
    lookupItem (putItem n v l) m = if m = n then v else lookupItem l m := by
  induction l with
  | nil =>
    unfold putItem
    split
    · rename_i hv; by_cases h : m = n <;> simp [lookupItem, h, hv]
    · rw [lookupItem_cons]
      by_cases h : m = n
      · simp [h]
      · rw [if_neg (by simpa using Ne.symm h), if_neg h]
  | cons p l ih =>
    obtain ⟨k, w⟩ := p
    have hp := (storeWf_cons _ _).1 hl
    unfold putItem
    split
    · rename_i hlt
      rw [lookupItem_cons, lookupItem_cons, ih hp.2.2]
      by_cases h : m = n
      · subst h; simp only [if_true]; rw [if_neg (by omega)]
      · simp [h]
    · split
      · rename_i hkn
        subst hkn
        split
        · rename_i hv
          by_cases h : m = k
          · subst h; simp only [if_true]; rw [lookupItem_above l m hp.2.1 hp.2.2, hv]
          · rw [if_neg h, lookupItem_cons, if_neg (fun e => h e.symm)]
        · rw [lookupItem_cons, lookupItem_cons]
          by_cases h : m = k
          · simp [h]
          · have h' : ¬ k = m := fun e => h e.symm
            simp [h, h']
      · rename_i h1 h2
        split
        · rename_i hv
          by_cases h : m = n
          · subst h
            rw [lookupItem_above _ m (by simp only [headAbove]; omega) hl]; simp [hv]
          · simp [h]
        · rw [lookupItem_cons]
          by_cases h : m = n
          · simp [h]
          · rw [if_neg (by simpa using Ne.symm h), if_neg h]

/-- What is read after a write. -/
theorem Store.get_put (st : Store) (n m : Nat) (v : Int) (h : storeWf st.items = true) :
    (st.put n v).get m = if m = n then v else st.get m := lookupItem_putItem n m v st.items h

/-- A clamped value lies within its bounds. -/
theorem clamp_between (lo hi v : Int) (h : lo ≤ hi) : lo ≤ clamp lo hi v ∧ clamp lo hi v ≤ hi := by
  unfold clamp; omega

/-- Bounds of the items that the laws rest on: a taken write keeps H within 0 to 600, the steer limit at 20 or more, I_base
no higher than I_max and the door count at 1 or more, and only a write of item 48 changes the door count (R94, R129). -/
theorem Store.write_bounds {st st' : Store} (hst : storeWf st.items = true) {n : Nat} {v0 v1 v2 : Byte}
    (hw : st.write n v0 v1 v2 = some st') :
    (st.get 21 = st'.get 21 ∨ 0 ≤ st'.get 21 ∧ st'.get 21 ≤ 600) ∧ (st.get 28 = st'.get 28 ∨ 20 ≤ st'.get 28) ∧
    (st.get 32 ≤ st.get 33 → st'.get 32 ≤ st'.get 33) ∧ (st.get 48 = st'.get 48 ∨ 1 ≤ st'.get 48) ∧
    (n ≠ 48 → st'.get 48 = st.get 48) := by
  unfold Store.write at hw
  split at hw
  · rename_i hk
    obtain ⟨v, -, rfl⟩ := Option.map_eq_some_iff.1 hw
    have : 80 ≤ n := by unfold itemIsKind at hk; simp at hk; omega
    simp only [Store.get_put _ _ _ _ hst]
    rw [if_neg (by omega), if_neg (by omega), if_neg (by omega), if_neg (by omega), if_neg (by omega)]
    exact ⟨.inl rfl, .inl rfl, id, .inl rfl, fun _ => rfl⟩
  · obtain ⟨v, hv, rfl⟩ := Option.map_eq_some_iff.1 hw
    have hv21 : n = 21 → 0 ≤ v ∧ v ≤ 600 := by
      rintro rfl; simp only [itemStored, midRange] at hv; norm_num at hv; subst hv; exact clamp_between _ _ _ (by norm_num)
    have hv28 : n = 28 → 20 ≤ v := by
      rintro rfl; simp only [itemStored, midRange] at hv; norm_num at hv; subst hv; exact (clamp_between _ _ _ (by norm_num)).1
    have hv48 : n = 48 → 1 ≤ v := by
      rintro rfl; simp only [itemStored, midRange] at hv; norm_num at hv; subst hv; exact (clamp_between _ _ _ (by norm_num)).1
    clear hv hw
    unfold Store.bind
    have g2 : ∀ (a : Nat) (x : Int) (b : Nat) (y : Int) m, ((st.put a x).put b y).get m =
        if m = b then y else if m = a then x else st.get m := by
      intro a x b y m; rw [Store.get_put _ _ _ _ (Store.put_wf _ _ _ hst), Store.get_put _ _ _ _ hst]
    split_ifs <;> simp only [Store.get_put _ _ _ _ hst, g2] <;> refine ⟨?_, ?_, ?_, ?_, ?_⟩ <;> split_ifs <;> omega

end Sys2Proof.Machine
end

