-- ==== Sys2Proof/Tests/Slice0.lean ====
section
/-! SUPPORT. The model's own tests: ill-formed commands, frames written out byte by byte, one step of each kind of
command, and a concrete state and operands that meet the hypotheses of each statement. -/

-- Each theorem of this file waits for its evaluation: elaborated side by side they hold a thread each.
set_option Elab.async false

namespace Sys2Proof.Tests

open Sys2Proof.Machine Sys2Proof.Safety

/-! Well-formedness -/

theorem test_wf_hold_limit_of_standing_source : (Instr.holdLimitExpiry (.brk .b) .doorHalt).wf = false := by decide
theorem test_wf_hold_limit_of_other_door : (Instr.holdLimitExpiry (.drel .d1) (.doorOpen .d2)).wf = false := by decide
theorem test_wf_hold_limit_of_own_door : (Instr.holdLimitExpiry (.drel .d2) (.doorOpen .d2)).wf = true := by decide
theorem test_wf_first_byte_without_clocks : (Instr.badFrame .a 7 0x10).wf = false := by decide
theorem test_wf_first_byte_with_clocks : (Instr.badFrame .a 8 0x10).wf = true := by decide
theorem test_wf_unknown_kind_names_request : (Instr.unknownKindFrame .a 0x26).wf = false := by decide
theorem test_wf_unknown_kind : (Instr.unknownKindFrame .a 0x27).wf = true := by decide
theorem test_known_kind_refused_by_exec :
    exec (.unknownKindFrame .a 0x26) State.reset = .refused .kindNamesARequest := rfl

/-! CRCs over the nine bytes "123456789", and frames written out from R189, 3.4 and R45 -/

theorem test_digest_crc : crc16 [0x31, 0x32, 0x33, 0x34, 0x35, 0x36, 0x37, 0x38, 0x39] = 0x29B1 := by decide +kernel
theorem test_port_crc : portCrc [0x31, 0x32, 0x33, 0x34, 0x35, 0x36, 0x37, 0x38, 0x39] = 0xDF := by decide +kernel
theorem test_field_crc : fieldCrc [0x31, 0x32, 0x33, 0x34, 0x35, 0x36, 0x37, 0x38, 0x39] = 0xF4 := by decide +kernel

/-- A 12-byte frame with its CRC. -/
def framed (body : List Byte) : List Byte := body ++ [portCrc body]

theorem test_frame_setpoint :
    decodeFrame .b 96 (framed [0x10, 0x01, 0x2C, 0x01, 0xFF, 0xCE, 0x00, 0x02, 0, 0, 0]) =
      .setpoint .b 0 300 1 (-50) 0 2 := by decide +kernel
theorem test_frame_clear_fault :
    decodeFrame .a 96 (framed [0x19, 0x00, 0x04, 0x01, 0, 0, 0, 0, 0, 0, 0]) = .clearFault .a 0 0x000401 := by
  decide +kernel
theorem test_frame_door_status :
    decodeFrame .d 96 (framed [0x20, 0, 1, 2, 4, 0, 0, 0, 0, 0, 0x55]) = .doorStatus .d 0x55 ⟨0, 1, 2, 4⟩ := by
  decide +kernel
theorem test_frame_unknown_kind :
    decodeFrame .a 96 (framed [0x1C, 0, 0, 0, 0, 0, 0, 0, 0, 0, 0]) = .unknownKindFrame .a 0x1C := by decide +kernel
theorem test_frame_wrong_count :
    decodeFrame .a 95 (framed [0x10, 0, 0, 0, 0, 0, 0, 0, 0, 0, 0]) = .badFrame .a 95 0x10 := by decide +kernel
theorem test_frame_wrong_crc :
    decodeFrame .a 96 [0x10, 0, 0, 0, 0, 0, 0, 0, 0, 0, 0, 0] = .badFrame .a 96 0x10 := by decide +kernel
theorem test_command_frame : commandFrame 4 1 (-5) = [0x5A, 0x04, 0x01, 0xFF, 0xFB, fieldCrc [0x5A, 4, 1, 0xFF, 0xFB]] := by
  decide +kernel

/-- An 8-byte response with its CRC. -/
def responded (body : List Byte) : List Byte := body ++ [fieldCrc body]

theorem test_response_good :
    decodeResponse 1 (responded [0xA6, 0x01, 0x00, 0x00, 0xFA, 0x00, 0x07]) = .fieldResponseReceived 0 250 7 := by
  decide +kernel
theorem test_response_silent : decodeResponse 1 [] = .responseWindowEnd .silent := by decide +kernel
theorem test_response_corrupt :
    decodeResponse 1 (responded [0xA5, 0x01, 0x00, 0x00, 0xFA, 0x00, 0x07]) = .responseWindowEnd .corrupt := by
  decide +kernel
theorem test_response_wrong_address :
    decodeResponse 1 (responded [0xA6, 0x02, 0x00, 0x00, 0xFA, 0x00, 0x07]) = .responseWindowEnd .wrongAddress := by
  decide +kernel
theorem test_response_ninth_byte_discarded :
    decodeResponse 1 (responded [0xA6, 0x01, 0x00, 0x00, 0xFA, 0x00, 0x07] ++ [0xEE]) = .fieldResponseReceived 0 250 7 ∧
      decodeResponse 2 (responded [0xA6, 0x01, 0x00, 0x00, 0xFA, 0x00, 0x07] ++ [0xEE]) =
        .responseWindowEnd .wrongAddress := by decide +kernel
theorem test_ack_silent : decodeAck 1 [] = .tAckExpiry .silent := by decide +kernel
theorem test_no_table_bits : decodeTableWord 96 5 = none := rfl
theorem test_fetch_word_leaves_state : State.reset.withFetchWord 96 5 = State.reset := rfl

/-! Small states -/

/-- The part after a power-on reset, in mode `m`, with BRK_A's command in flight. -/
def st (m : Mode) : State :=
  { State.reset with
    mc := { State.reset.mc with mode := m }
    flc := { State.reset.flc with txn := some ⟨.brk .a, 1, .set, 0, 300, none⟩ } }

/-- `st m` with MC's conditions for STANDBY met. -/
def standing (m : Mode) : State :=
  { st m with mc := { (st m).mc with atRest := true, doors := .of fun _ => false } }

/-- `st m` with the transfer of every port abandoned by a reset. -/
def cut (m : Mode) : State := { st m with mpi := .of fun _ => portReset .abandoned }

/-- The state after a command, or the state itself where it stops. -/
def after (c : Instr) (s : State) : State :=
  match exec c s with
  | .next t => t
  | _ => s

/-- `st .safeStop` at rest for MC, after the announcements given have been taken. -/
def placedTwice (evs : List Ev) : State := settle 8 { standing .safeStop with inFlight := evs }

theorem passes_lane (m : Mode) (h : m ≠ .powerup) (x : Lane) : Passes (lanePort x) 0 lanePorts (st m) := by
  refine ⟨?_, h, rfl, ?_⟩ <;> cases x <;> rfl

theorem passes_any (m : Mode) (h : m ≠ .powerup) (p : Port) : Passes p 0 allPorts (st m) := by
  refine ⟨?_, h, rfl, rfl⟩; cases p <;> rfl

theorem passes_door (m : Mode) (h : m ≠ .powerup) : Passes .d 0 doorPort (st m) := ⟨rfl, h, rfl, rfl⟩

/-! One step each on a small state -/

theorem test_initialisation_starts_link :
    (after .initialisationComplete State.reset).mode = .config ∧
      (after .initialisationComplete State.reset).flc.txn = some ⟨.brk .a, 1, .set, 250, 300, none⟩ := by decide +kernel
theorem test_setpoint_places_lane_claims :
    (after (.setpoint .a 0 120 0 0 0 0)
      { st .run with lv := { lvReset with firstVoteDue := true } }).holder (.brk .a) = some .lane := by decide +kernel
theorem test_halt_on_holds_axle_b :
    (after (.haltOn .d 0) (st .run)).effective (.brk .b) = .num 250 ∧
      ((after (.haltOn .d 0) (st .run)).mpi.get .d).queue = [.claimTaken 6 .doorHalt] := by decide +kernel
theorem test_door_open_at_rest_drives_output :
    (after (.doorOpen .d 0 2) { st .run with mru := { mruReset with atRest := true } }).dsv.outputs =
      ⟨false, true, false, false⟩ := by decide +kernel
theorem test_kneel_on_starts_lowering :
    (after (.kneelOn .d 0) (st .run)).lku.kneel = .lowering ∧
      (after (.kneelOn .d 0) (st .run)).bau.floor = true := by decide +kernel
theorem test_lane_disagree_degrades :
    (after (.setpoint .b 0 200 0 0 1 0) { st .run with lv := { lvReset with
      lanes := ⟨⟨setpointReset, some 3, .fresh, .stage1 40⟩, laneReset⟩, counters := ⟨4, 0, 0, 0, 0⟩ } }).mode =
      .degraded := by decide +kernel
theorem test_node_lost_at_third_miss :
    (after (.responseWindowEnd .silent) { st .run with flc := { (st .run).flc with
      nodes := (st .run).flc.nodes.set (.brk .a) ⟨.active, 2, 0, 0, 0, 0⟩ } }).bau.lost = ⟨true, false, false⟩ := by
  decide +kernel
theorem test_fatal_in_service_safe_stops :
    (after (.responseWindowEnd .silent) { st .service with flc := { (st .service).flc with
      nodes := ((st .service).flc.nodes.set (.brk .a) ⟨.active, 2, 0, 0, 0, 0⟩).set (.brk .b) ⟨.lost, 3, 0, 0, 0, 0⟩
        } }).holder (.str) = some .safe := by decide +kernel
theorem test_config_write_binds_v2 :
    ((after (.configWrite .a 0 26 1 0x2C 0) (st .config)).store.v1,
      (after (.configWrite .a 0 26 1 0x2C 0) (st .config)).store.v2) = (300, 310) := by decide +kernel
theorem test_config_write_empty_entry_kind_refused :
    ((after (.configWrite .a 0 88 6 0 0) (st .config)).mpi.get .a).answer.result = .refusedArg := by decide +kernel
theorem test_enter_run_pair :
    (after (.enterRun .b 0 45827) { st .config with
      mc := { (st .config).mc with ready := ⟨some 500, none⟩ }
      flc := { (st .config).flc with nodes := .of fun _ => ⟨.active, 0, 0, 0, 0, 0⟩ } }).mode = .run := by
  decide +kernel
theorem test_default_digest : Store.default.digest = 45827 := by decide +kernel
theorem test_warm_reset_restarts_link :
    (after .rstnWarmReset (st .run)).flc.txn = some ⟨.brk .a, 1, .set, 250, 300, none⟩ := by decide +kernel
theorem test_at_rest_before_entry_places_once :
    ((placedTwice [.atRest false, .mode .run .safeStop]).cau.get (.drel .d1)).counter = 2 ∧
      ((placedTwice [.mode .run .safeStop, .atRest false]).cau.get (.drel .d1)).counter = 2 := by decide +kernel
theorem test_tick_counts_down :
    (tick { st .run with mru := { mruReset with settle := some 7 } }).mru.settle = some 6 := by decide +kernel

/-! A state and operands that meet the hypotheses of each statement, clause by clause -/

theorem test_meets_EmptyQueueTicks : (st .run).pending = [] ∧ Quiet (st .run) := ⟨rfl, rfl, rfl⟩

theorem test_meets_EmptyQueueTicks_settled :
    (st .run).inFlight = [] ∧ { st .run with inFlight := [.followMark false] }.inFlight = .followMark false :: [] ∧
      (settle 0 (st .run)).inFlight = [] ∧ (settle 1 { st .run with inFlight := [.followMark false] }).inFlight = [] := by
  decide +kernel

theorem test_meets_ExecKeepsQueue : ∃ t, exec (.nop .a 0) (st .run) = .next t := ⟨_, rfl⟩

theorem test_meets_RequestsJudgedInOrder :
    requestOf (.nop .a 1) = some (.a, 1, 0x00, allPorts) ∧ isAbandoned .a (st .powerup) = false ∧
      (st .powerup).mode = .powerup ∧ isAbandoned .a (st .config) = false ∧ (st .config).mode ≠ .powerup ∧
      (1 : Byte) ≠ 0 ∧ requestOf (.haltOn .a 0) = some (.a, 0, 0x23, doorPort) ∧ doorPort .a = false ∧
      kindNames 0x27 = false ∧ (Port.b ≠ Port.a) :=
  ⟨rfl, by decide, rfl, by decide, by decide, by decide, rfl, rfl, by decide, by decide⟩

theorem test_meets_RequestsJudgedInOrder_kinds :
    requestOf (.nop .d 0) = some (.d, 0, 0x00, allPorts) ∧ requestOf (.testField .b 0 0 0 0) = some (.b, 0, 0x1B, lanePorts) ∧
      requestOf (.kneelOff .d 0) = some (.d, 0, 0x26, doorPort) ∧ kindNames 0x26 = true ∧ kindNames 0x04 = false ∧
      kindNames 0x1C = false := ⟨rfl, rfl, rfl, by decide, by decide, by decide⟩

theorem test_meets_FramesNotTaken :
    requestOf (.nop .a 0) = some (.a, 0, 0x00, allPorts) ∧ isAbandoned .a (cut .run) = true ∧
      kindNames 0x27 = false ∧ kindNames 0x26 = true := ⟨rfl, by decide, by decide, by decide⟩

theorem test_meets_BadFrameDiscarded :
    isAbandoned .a (st .run) = false ∧ (st .run).mode ≠ .powerup ∧ (st .run).inFlight = [] ∧
      isAbandoned .a (st .powerup) = false ∧ (st .powerup).mode = .powerup := by decide

/-- A port with one notice queued. -/
def onePort : PortState := ⟨⟨0, .ok, List.replicate 8 0⟩, [.claimTaken 2 .doorHalt], true, .idle⟩

theorem test_meets_NoticeOffered :
    (∃ m ∈ onePort.queue, m.kindNo = (Notice.claimTaken 4 .doorHalt).kindNo) ∧
      (∀ m ∈ onePort.queue, m.kindNo ≠ (Notice.enterRunLapsed .a).kindNo) ∧ QueueOk onePort ∧
      (Notice.modeChanged .run .degraded).kindNo = (Notice.modeChanged .config .run).kindNo ∧
      (Notice.modeChanged .config .run).kindNo ≠ 1 ∧ (Notice.enterRunLapsed .a).kindNo ≠ 5 ∧
      (popNotice onePort).queue = [] := by
  refine ⟨by decide, by decide, ⟨by decide, by decide⟩, by decide, by decide, by decide, by decide⟩

theorem test_meets_NoticesReadOldestFirst :
    Passes .a 0 allPorts (st .run) ∧ ((st .run).mpi.get .a).queue = [] ∧
      Passes .a 0 allPorts { st .run with mpi := ⟨onePort, onePort, onePort⟩ } ∧
      ({ st .run with mpi := ⟨onePort, onePort, onePort⟩ }.mpi.get .a).queue = .claimTaken 2 .doorHalt :: [] :=
  ⟨passes_any _ (by decide) _, rfl, ⟨by decide, by decide, rfl, rfl⟩, rfl⟩

theorem test_meets_ReadsChangeNothing :
    Passes .d 0 allPorts (st .standby) ∧ Instr.nop .a 0 ∈ [Instr.nop .a 0, .readClaim .a 0 0 0] :=
  ⟨passes_any _ (by decide) _, by decide⟩

/-- A record of a source at a level with a stamp. -/
def record (src : Source) (level stamp : Nat) (held : Bool) : Claim := ⟨src, level, .num 100, stamp, .absent, held⟩

/-- `st .run` with the list of BRK_A. -/
def listed (l : List Claim) (counter : Nat) : State :=
  { st .run with cau := (st .run).cau.set (.brk .a) ⟨l, counter⟩ }

theorem test_meets_ClaimRead :
    Passes .b 0 allPorts (listed (List.replicate 8 (record .lane 4 1 true)) 8) ∧ chanNo (.brk .a) = (0 : Byte).toNat ∧
      (7 : Byte).toNat < 8 ∧
      ((listed (List.replicate 8 (record .lane 4 1 true)) 8).cau.get (.brk .a)).claims[(7 : Byte).toNat]? =
        some (record .lane 4 1 true) ∧
      chanNo (.drel .d4) = (14 : Byte).toNat ∧ ((st .run).cau.get (.drel .d4)).claims.length ≤ (0 : Byte).toNat ∧
      14 < (15 : Byte).toNat ∧ 7 < (8 : Byte).toNat := by
  refine ⟨⟨by decide, by decide, rfl, rfl⟩, ?_⟩; decide

theorem test_meets_StatePagesRead :
    Passes .b 0 allPorts (closeTransfer .b (st .run)) ∧
      (statePage (st .run) 0 5).isSome = true ∧ statePage (st .run) 0 6 = none ∧
      (statePage (st .run) 6 5).isSome = true ∧ statePage (st .run) 6 6 = none ∧ statePage (st .run) 7 0 = none :=
  ⟨⟨by decide, by decide, rfl, rfl⟩, rfl, rfl, rfl, rfl, rfl⟩

theorem test_meets_ConfigItemRead :
    Passes .b 0 lanePorts (st .run) ∧ ((0 : Byte).toNat < 240 ∧ (0 : Byte).toNat ≠ 189) ∧
      ((188 : Byte).toNat < 240 ∧ (188 : Byte).toNat ≠ 189) ∧ ((239 : Byte).toNat < 240 ∧ (239 : Byte).toNat ≠ 189) ∧
      (189 : Byte).toNat = 189 ∧ 240 ≤ (240 : Byte).toNat ∧ 240 ≤ (255 : Byte).toNat :=
  ⟨passes_lane _ (by decide) .b, by decide⟩

theorem test_meets_ConfigItemRead_bytes :
    (88 = 80 + 9 * (0 : Fin 12).val + 8 ∧ 187 = 80 + 9 * (11 : Fin 12).val + 8) ∧ 0 ≤ Store.default.get 88 ∧
      (¬ ∃ k : Fin 12, 25 = 80 + 9 * k.val + 8) ∧ Store.default.bytes 25 = [0xFF, 0x00] ∧
      Store.default.bytes 88 = [4, 0, 0] ∧ Store.bytes ⟨[(88, 393215)]⟩ 88 = [5, 0xFF, 0xFF] := by decide +kernel

theorem test_meets_ConfigItemRead_severities :
    (Store.default.get 188 = 0 ∧ Store.default.severity .laneStale = .correctable) ∧
      (Store.default.get 54 = 1 ∧ Store.default.severity .laneLost = .degrade) ∧
      (Store.default.get 190 = 2 ∧ Store.default.severity .bothLanesLost = .fatal) ∧
      ((7 : Int) ≠ 0 ∧ (7 : Int) ≠ 1 ∧ Store.severity ⟨[(208, 7)]⟩ .shutdownAckMissing = .fatal) := by decide

/-- A capture of ARTIC_LIMIT on STR_C. -/
def capture : Capture :=
  ⟨.articLimit, .sju, .run, 50, true, false, 560, some ⟨.str, some .lane, .num 30⟩, 0⟩

/-- A log entry of ARTIC_LIMIT. -/
def logged : LogEntry := ⟨.articLimit, .sju, some .str, ⟨.unitRecord, [1, 2, 3]⟩⟩

/-- `st m` with FU as given. -/
def faulty (m : Mode) (f : Fu) : State := { st m with fu := f }

theorem test_meets_FaultRecordsRead :
    Passes .a 0 lanePorts (faulty .run { fuReset with capture := some capture, log := some logged }) ∧
      (faulty .run { fuReset with capture := some capture }).fu.capture = some capture ∧
      capture.affected = some ⟨.str, some .lane, .num 30⟩ ∧ { capture with affected := none }.affected = none ∧
      (faulty .run { fuReset with capture := some { capture with affected := none } }).fu.capture =
        some { capture with affected := none } ∧ (st .run).fu.capture = none ∧
      (st .run).fu.log = none ∧ (faulty .run { fuReset with log := some logged }).fu.log = some logged ∧
      3 < (4 : Byte).toNat ∧ 5 < (6 : Byte).toNat ∧ (1 ≤ (3 : Byte).toNat ∧ (3 : Byte).toNat ≤ 3) ∧
      (2 ≤ (5 : Byte).toNat ∧ (5 : Byte).toNat ≤ 5) :=
  ⟨⟨by decide, by decide, rfl, rfl⟩, rfl, rfl, rfl, rfl, rfl, rfl, rfl, by decide⟩

theorem test_meets_SetpointTaken :
    Passes (lanePort .b) 0 lanePorts (st .safeStop) ∧ (st .safeStop).mode.operating = true ∧
      (st .safeStop).inFlight = [] ∧ Passes (lanePort .a) 0 lanePorts (st .standby) ∧
      (st .standby).mode.operating = false :=
  ⟨passes_lane _ (by decide) .b, rfl, rfl, passes_lane _ (by decide) .a, rfl⟩

/-- LV with lane B as given. -/
def lvB (b : LaneState) : Lv := { lvReset with lanes := ⟨laneReset, b⟩ }

theorem test_meets_VoteForms :
    ((lvB ⟨setpointReset, some 0, .fresh, .stage1 50⟩).lanes.get (otherLane .a)).freshness = .fresh ∧
      (lvReset.lanes.get (otherLane .a)).freshness ≠ .fresh := by decide

theorem test_meets_LaneTimersExpire :
    ({ st .run with lv := lvB ⟨setpointReset, some 50, .fresh, .stage1 0⟩ }.lv.lanes.get .b).timer = .stage1 0 ∧
      ({ st .run with lv := lvB ⟨setpointReset, some 300, .stale, .stage2 0⟩ }.lv.lanes.get .b).timer = .stage2 0 ∧
      ({ st .run with lv := lvB ⟨setpointReset, some 300, .lost, .stopped⟩ }.lv.lanes.get (otherLane .a)).freshness =
        .lost ∧ (st .run).inFlight = [] ∧ (st .run).mode ≠ .powerup ∧
      (∀ ms, ((st .run).lv.lanes.get .a).timer ≠ .stage1 ms) ∧ (∀ ms, ((st .run).lv.lanes.get .a).timer ≠ .stage2 ms) :=
  ⟨rfl, rfl, rfl, rfl, by decide, (fun _ h => nomatch h), (fun _ h => nomatch h)⟩

/-- S_SAFE ahead of S_LANE. -/
def twoClaims : ClaimList := ⟨[record .safe 15 2 true, record .lane 4 1 false], 2⟩

theorem test_meets_PlacementInserts :
    ListOk twoClaims ∧ ListOk ⟨[record .lane 4 1 true], 1⟩ ∧ ListOk ⟨[], 0⟩ ∧ twoClaims.counter < 4294967295 ∧
      (∀ x ∈ twoClaims.claims, x.source ≠ .emerg) ∧ sourceLevel Store.default .emerg = 14 ∧
      claimKind .emerg ≠ .oneShot := by
  refine ⟨⟨?_, by decide, by decide, ⟨rfl, rfl⟩⟩, ⟨?_, by decide, by decide, ⟨rfl, rfl⟩⟩, ⟨?_, by decide, by decide, trivial⟩,
    by decide, by decide, rfl, by decide⟩ <;> simp [twoClaims, Before, record]

theorem test_meets_RecordsReplacedAndWithdrawn :
    (∃ x ∈ twoClaims.claims, x.source = .lane) ∧ twoClaims.counter < 4294967295 ∧
      (⟨twoClaims.claims, 4294967295⟩ : ClaimList).counter = 4294967295 ∧
      (∀ x ∈ twoClaims.claims, x.source ≠ .emerg) ∧ (record .safe 15 2 true).source ≠ .lane := by decide

theorem test_meets_RecordsReplacedAndWithdrawn_renumbered :
    twoClaims.claims[1]? = some (record .lane 4 1 false) ∧ twoClaims.claims[2]? = none ∧
      (renumber 1 twoClaims.claims).map Claim.stamp = [1, 2] := by decide

theorem test_meets_PlacementsTakenByCau :
    ¬ ((st .config).mode.operating = true ∧ (st .config).store.chanFitted (.brk .a) = true ∧
        eligible (st .config).store .lane (.brk .a) = true) ∧
      (st .degraded).mode.operating = true ∧ (st .degraded).store.chanFitted (.brk .a) = true ∧
      eligible (st .degraded).store .lane (.brk .a) = true ∧ ((st .run).cau.get (.brk .a)).claims = [] ∧
      ((listed [record .lane 4 1 true] 1).cau.get (.brk .a)).claims = record .lane 4 1 true :: [] := by decide

theorem test_meets_PlacementsTakenByCau_setpoints :
    (∀ e, Source.lane ≠ .entry e) ∧ (brakeSetpoint Store.default (bauReset Store.default) .a .lane).isSome = true ∧
      (entryFields Store.default (.fixed .f0)).kind = .halt ∧ (entryFields Store.default (.fixed .f1)).kind = .off ∧
      (entryFields ⟨[(88, 131072)]⟩ (.prog 0)).kind = .centre ∧
      (entryFields Store.default (.fixed .f3)).kind = .followBase ∧
      (entryFields Store.default (.prog 11)).kind = .holdPresent ∧ (st .run).effective (.brk .c) = .num 250 ∧
      (entryFields ⟨[(88, 327680)]⟩ (.prog 0)).kind = .value 0 ∧
      (entryFields ⟨[(187, 393215)]⟩ (.prog 11)).kind = .value (-1) :=
  ⟨(fun _ h => nomatch h), by decide +kernel⟩

theorem test_meets_PlacementsTakenByCau_notices :
    (placeClaim .doorHalt (.brk .b) (st .run)).holder (.brk .b) = some .doorHalt ∧
      (st .run).holder (.brk .b) = none ∧ (placeClaim .lane (.drel .d1) (st .run)).holder (.drel .d1) = none ∧
      isDoorSource .doorHalt = true ∧
      (placeClaim .safe (.brk .b) (placeClaim .doorHalt (.brk .b) (st .run))).holder (.brk .b) = some .safe := by
  decide +kernel

/-- F1 ahead of S_DOOR_OPEN_1, whose hold limit has run down. -/
def behindF1 : ClaimList :=
  ⟨[⟨.entry (.fixed .f1), 12, .off, 1, .absent, true⟩, ⟨.doorOpen .d1, 8, .on, 2, .running 0, false⟩], 2⟩

/-- `st .run` with S_DOOR_OPEN_1 waiting behind F1 on DREL_1. -/
def waiting : State := { st .run with cau := (st .run).cau.set (.drel .d1) behindF1 }

theorem emptyOk : ListOk listReset := ⟨.nil, by decide, by decide, trivial⟩

theorem test_meets_PlacementInserts_limits :
    ListOk listReset ∧ listReset.counter < 4294967295 ∧ (∀ x ∈ listReset.claims, x.source ≠ .doorKneel) ∧
      startHold Store.default (.doorOpen .d4) = .running 5000 ∧ startHold ⟨[(46, 0)]⟩ (.doorOpen .d1) = .noLimit ∧
      startHold ⟨[(46, 30)]⟩ (.doorOpen .d1) = .running 30000 ∧ startHold ⟨[(47, 0)]⟩ .doorKneel = .noLimit ∧
      startHold ⟨[(47, 30)]⟩ .doorKneel = .running 30000 := ⟨emptyOk, by decide, by decide, by decide +kernel⟩

theorem behindF1Ok : ListOk behindF1 := ⟨by simp [behindF1, Before], by decide, by decide, ⟨rfl, rfl⟩⟩

theorem waitingOk : ListsOk waiting := by
  intro c
  rcases c with x | _ | _ | k | n
  · cases x <;> exact emptyOk
  · exact emptyOk
  · exact emptyOk
  · cases k <;> exact emptyOk
  · cases n
    · exact behindF1Ok
    all_goals exact emptyOk

theorem test_meets_HoldLimitExpires :
    holdRuns (.doorOpen .d1) (waiting.cau.get (.drel .d1)).claims = true ∧
      waiting.holder (.drel .d1) ≠ some (.doorOpen .d1) ∧
      holdRuns (.doorOpen .d2) ((st .run).cau.get (.drel .d2)).claims = false ∧ ListsOk waiting :=
  ⟨by decide, by decide, by decide, waitingOk⟩

/-- `st m` with the store as given. -/
def stored (m : Mode) (c : Store) : State := { st m with mc := { (st m).mc with store := c } }

/-- `st .config` with the store locked. -/
def lockedUp : State := { st .config with mc := { (st .config).mc with locked := true } }

theorem test_meets_ConfigWriteJudged :
    Passes .a 0 lanePorts (st .run) ∧ (st .run).mode ≠ .config ∧ Passes .a 0 lanePorts (st .config) ∧
      ¬ ((189 : Byte).toNat < 240 ∧ (189 : Byte).toNat ≠ 189) ∧ ¬ ((240 : Byte).toNat < 240 ∧ (240 : Byte).toNat ≠ 189) ∧
      ((239 : Byte).toNat < 240 ∧ (239 : Byte).toNat ≠ 189) ∧ Passes .a 0 lanePorts lockedUp ∧
      lockedUp.mc.locked = true ∧ (st .config).mc.locked = false ∧ (st .config).inFlight = [] ∧
      (st .config).store.write (88 : Byte).toNat 6 0 0 = none ∧
      (st .config).store.write (21 : Byte).toNat 1 0 0 = some ⟨[(21, 256)]⟩ :=
  ⟨passes_lane _ (by decide) .a, by decide, passes_lane _ (by decide) .a, by decide, by decide, by decide,
    ⟨by decide, by decide, rfl, rfl⟩, by decide⟩

theorem test_meets_ConfigWriteJudged_values :
    storeWf Store.default.items = true ∧ (clamp 0 1190 299 < Store.default.get 27 ∧ Store.default.get 27 ≤ clamp 0 1190 300) ∧
      ((209 : Nat) ≤ 229 ∧ (229 : Nat) ≠ 211 ∧ (229 : Nat) ≠ 221) ∧ ((188 : Nat) ≤ 208 ∧ (208 : Nat) ≠ 189) ∧
      Store.default.write 190 0 0 0 = some ⟨[]⟩ ∧ Store.default.write 211 0 1 0 = some ⟨[]⟩ ∧
      Store.default.write 239 0xFF 0xFF 0 = some (Store.default.put 239 7) ∧
      Store.default.write 80 0 6 0 = some (Store.default.put 80 6) ∧ Store.default.write 80 0 7 0 = none ∧
      Store.default.write 81 0 3 0 = some (Store.default.put 81 3) ∧ Store.default.write 81 0 4 0 = none ∧
      Store.default.write 187 5 0xFF 0xFF = some (Store.default.put 187 393215) ∧
      Store.default.write 187 4 9 9 = some Store.default ∧ Store.default.write 187 6 0 0 = none := by decide +kernel

theorem test_meets_ConfigWriteJudged_acts :
    (∀ n, ¬ ((st .config).store.get n ≠ Store.default.get n)) ∧
      (∀ x, (stored .config ⟨[(axleBase x, 0), (axleBase x + 6, 0)]⟩).store.get (axleBase x + 0) ≠
          Store.default.get (axleBase x + 0) ∧
        (stored .config ⟨[(axleBase x, 0), (axleBase x + 6, 0)]⟩).store.get (axleBase x + 6) ≠
          Store.default.get (axleBase x + 6)) ∧
      (stored .config ⟨[(35, 0)]⟩).store.get 35 ≠ Store.default.get 35 ∧
      ((stored .config ⟨[(36, 0)]⟩).store.get 36 ≠ Store.default.get 36 ∧
        (stored .config ⟨[(36, 0)]⟩).store.get 36 = 0) ∧
      (stored .config ⟨[(48, 1)]⟩).store.get 48 ≠ Store.default.get 48 ∧
      (stored .config ⟨[(59, 20)]⟩).store.get 59 ≠ Store.default.get 59 :=
  ⟨fun _ h => h rfl, fun x => by cases x <;> decide, by decide⟩

theorem test_meets_ConfigWriteJudged_others :
    (21 : Nat) ≤ 21 ∧ 21 ∉ [28, 32, 33, 35, 36, 37, 38, 39, 48, 59] ∧ 21 ≤ 239 ∧
      239 ∉ [28, 32, 33, 35, 36, 37, 38, 39, 48, 59] ∧
      ((stored .config ⟨[(0, 0)]⟩).store.get (axleBase .a + 0) ≠ Store.default.get (axleBase .a + 0) ∧
        (stored .config ⟨[(20, 0)]⟩).store.get (axleBase .c + 6) ≠ Store.default.get (axleBase .c + 6)) := by decide

/-- Every node ACTIVE. -/
def allActive : PerNode NodeRec := .of fun _ => ⟨.active, 0, 0, 0, 0, 0⟩

/-- `st .config` with every node ACTIVE and lane A's ready mark set. -/
def ready : State :=
  { st .config with
    flc := { (st .config).flc with nodes := allActive }
    mc := { (st .config).mc with ready := ⟨some 1, none⟩ } }

/-- `st .standby` with lane A's ready mark set and every node UNPOLLED. -/
def notReady : State := { st .standby with mc := { (st .standby).mc with ready := ⟨some 1, none⟩ } }

theorem test_meets_EnterRunJudged :
    Passes (lanePort .b) 0 lanePorts (st .run) ∧ ¬ ((st .run).mode = .config ∨ (st .run).mode = .standby) ∧
      Passes (lanePort .b) 0 lanePorts (st .config) ∧ (st .config).store.digest ≠ 0 ∧
      (st .config).store.digest = 45827 ∧ (st .config).mc.ready.get (otherLane .b) = none ∧
      ready.mc.ready.get (otherLane .b) ≠ none ∧ ready.store.digest = 45827 ∧ validation ready = none ∧
      notReady.mc.ready.get (otherLane .b) ≠ none ∧ notReady.store.digest = 45827 ∧
      validation notReady = some (2, 0) :=
  ⟨passes_lane _ (by decide) .b, by decide, passes_lane _ (by decide) .b, by decide +kernel, by decide +kernel,
    by decide, by decide, by decide +kernel, by decide +kernel, by decide, by decide +kernel, by decide +kernel⟩

/-- `st .config` with every node ACTIVE and a store. -/
def nearRun (c : Store) : State :=
  { stored .config c with flc := { (st .config).flc with nodes := allActive } }

/-- Three entries that target BRK_B with kind HALT: one source too many. -/
def crowded : Store := ⟨[(86, 2), (88, 0), (95, 2), (97, 0), (104, 2), (106, 0)]⟩

/-- An entry of kind HOLD_PRESENT that targets DREL_1. -/
def unsuited : Store := ⟨[(86, 2048)]⟩

theorem test_meets_ValidationChecks_fatal :
    let s := faulty .config { fuReset with status := 4 }
    (s.fu.has .bothLanesLost = true ∧ s.store.severity .bothLanesLost = .fatal) ∧
      ∀ j : FaultKind, j.no < FaultKind.bothLanesLost.no → ¬ (s.fu.has j = true ∧ s.store.severity j = .fatal) :=
  ⟨by decide, fun j => by cases j <;> decide⟩

theorem test_meets_ValidationChecks_node :
    (∀ k, ¬ ((st .config).fu.has k = true ∧ (st .config).store.severity k = .fatal)) ∧
      ((st .config).store.nodeFitted (.brk .a) = true ∧ ((st .config).flc.nodes.get (.brk .a)).state ≠ .active) ∧
      ∀ m, nodeNo m < nodeNo (.brk .a) → ¬ ((st .config).store.nodeFitted m = true ∧
        ((st .config).flc.nodes.get m).state ≠ .active) :=
  ⟨fun k => by cases k <;> decide, by decide, fun _ h => absurd h (Nat.not_lt_zero _)⟩

theorem nearRun_active (c : Store) (n : Node) :
    ¬ ((nearRun c).store.nodeFitted n = true ∧ ((nearRun c).flc.nodes.get n).state ≠ .active) := by
  rintro ⟨-, h⟩
  apply h
  rcases n with x | _ | _ | k
  · cases x <;> rfl
  · rfl
  · rfl
  · cases k <;> rfl

theorem test_meets_ValidationChecks_full :
    8 < eligibleCount (nearRun crowded).store (.brk .b) ∧
      ∀ d, chanNo d < chanNo (.brk .b) → ¬ 8 < eligibleCount (nearRun crowded).store d := by
  refine ⟨by decide +kernel, fun d h => ?_⟩
  rcases d with x | _ | _ | k | n
  · cases x <;> first | decide +kernel | exact absurd h (by decide)
  · exact absurd h (by decide)
  · exact absurd h (by decide)
  · cases k <;> exact absurd h (by decide)
  · cases n <;> exact absurd h (by decide)

theorem test_meets_ValidationChecks_entry :
    (∃ c, (nearRun unsuited).store.entryTargets 0 c = true ∧
        compatible ((nearRun unsuited).store.entryKind 0) c = false) ∧
      (∀ e : Fin 12, e < 0 → ¬ ∃ c, (nearRun unsuited).store.entryTargets e c = true ∧
        compatible ((nearRun unsuited).store.entryKind e) c = false) ∧
      ∀ c, ¬ 8 < eligibleCount (nearRun unsuited).store c := by
  refine ⟨⟨.drel .d1, by decide +kernel⟩, fun e h => absurd h (Nat.not_lt_zero _), fun c => ?_⟩
  rcases c with x | _ | _ | k | n
  · cases x <;> decide +kernel
  · decide +kernel
  · decide +kernel
  · cases k <;> decide +kernel
  · cases n <;> decide +kernel

theorem test_meets_ValidationChecks_group :
    (nearRun ⟨[(43, 0)]⟩).store.groupList = [] ∧ (nearRun Store.default).store.groupList ≠ [] ∧
      validation (nearRun ⟨[(43, 0)]⟩) = some (5, 43) := by decide +kernel

/-- A state with the STANDBY window as given. -/
def windowed (s : State) (w : Option Opened) : State := { s with mc := { s.mc with standbyWin := w } }

theorem test_meets_ModeRequestJudged :
    (∀ m, m ≠ .powerup → Passes (lanePort .a) 0 lanePorts (st m)) ∧ 6 < (7 : Byte).toNat ∧
      ((0 : Byte) = 0 ∨ (0 : Byte) = 3 ∨ (0 : Byte) = 4 ∨ (0 : Byte) = 5) ∧
      (6 : Byte).toNat = (st .standby).mode.code ∧ (st .config).mode = .config ∧
      ((st .run).mode ≠ .config ∧ (st .run).mode ≠ .service) ∧ (st .service).mode = .service ∧
      (st .safeStop).mode = .safeStop ∧ (st .degraded).mode = .degraded ∧ ¬ (st .degraded).mc.atRest = true ∧
      Passes (lanePort .a) 0 lanePorts (standing .run) ∧ (standing .run).mc.atRest = true ∧
      (∀ n, (standing .run).store.doorFitted n = true → (standing .run).mc.doors.get n = false) ∧
      (standing .run).mc.kneel = .normal ∧ (standing .run).mc.standbyWin = none ∧
      Passes (lanePort .a) 0 lanePorts (windowed (standing .run) (some ⟨.b, 0⟩)) ∧
      (windowed (standing .run) (some ⟨.b, 0⟩)).mc.standbyWin = some ⟨.b, 0⟩ ∧ Lane.b ≠ Lane.a :=
  ⟨fun m h => passes_lane m h .a, by decide, by decide, rfl, rfl, by decide, rfl, rfl, rfl, by decide,
    ⟨by decide, by decide, rfl, rfl⟩, rfl, fun n _ => by cases n <;> rfl, rfl, rfl,
    ⟨by decide, by decide, rfl, rfl⟩, rfl, by decide⟩

/-- Mode changes of every kind that the clauses on the blocks tell apart, and the entry to SAFE_STOP waiting or taken. -/
theorem test_meets_ModeRequestJudged_blocks :
    (∀ m ∈ [Mode.config, .service, .standby], m = .config ∨ m = .service ∨ m = .standby) ∧
      (Mode.run = .run ∧ (Mode.standby = .config ∨ Mode.standby = .standby)) ∧
      ¬ (Mode.run = .run ∧ (Mode.degraded = .config ∨ Mode.degraded = .standby)) ∧
      (Mode.degraded ≠ .standby ∧ Mode.run ≠ .standby ∧ Mode.run ≠ .powerup ∧ Mode.run ≠ .service) ∧
      ((st .safeStop).mode = .safeStop ∧ ∀ m, Ev.mode m .safeStop ∉ (st .safeStop).inFlight) ∧
      (∃ m, Ev.mode m .safeStop ∈ { st .safeStop with inFlight := [.mode .run .safeStop] }.inFlight) ∧
      (st .run).mode ≠ .safeStop ∧
      ((st .run).holder (.brk .a) = none ∧ (st .run).effective (.brk .a) = (st .run).store.rest (.brk .a)) ∧
      (listed [record .lane 4 1 true] 1).holder (.brk .a) ≠ none :=
  ⟨by decide, by decide, by decide, by decide, ⟨rfl, (fun _ h => nomatch h)⟩, ⟨.run, by decide⟩, by decide, by decide,
    by decide⟩

/-- `st .safeStop` at rest with the WARM_RESET window open for lane B. -/
def resetting : State :=
  { st .safeStop with mc := { (st .safeStop).mc with atRest := true, resetWin := some ⟨.b, 0⟩ } }

theorem test_meets_WarmResetPaired :
    Passes (lanePort .a) 0 lanePorts (st .run) ∧ ¬ ((st .run).mc.atRest = true ∨ (st .run).mode.operating = false) ∧
      Passes (lanePort .a) 0 lanePorts (st .standby) ∧
      ((st .standby).mc.atRest = true ∨ (st .standby).mode.operating = false) ∧
      (st .standby).mc.resetWin = none ∧ Passes (lanePort .a) 0 lanePorts resetting ∧
      (resetting.mc.atRest = true ∨ resetting.mode.operating = false) ∧ resetting.mc.resetWin = some ⟨.b, 0⟩ ∧
      (⟨.b, 0⟩ : Opened).lane ≠ .a :=
  ⟨passes_lane _ (by decide) .a, by decide, passes_lane _ (by decide) .a, by decide, rfl,
    ⟨by decide, by decide, rfl, rfl⟩, by decide, rfl, by decide⟩

theorem test_meets_ResetsTaken : (st .safeStop).mode ≠ .powerup ∧ (st .powerup).mode = .powerup := by decide

theorem test_meets_InitialisationCompletes : (st .powerup).mode = .powerup ∧ (st .run).mode ≠ .powerup := by decide

/-- Both lanes FRESH. -/
def bothFresh : Lv :=
  { lvReset with lanes := ⟨⟨setpointReset, some 0, .fresh, .stage1 50⟩, ⟨setpointReset, some 0, .fresh, .stage1 50⟩⟩ }

/-- `st .degraded` with both lanes FRESH, FU as given and every node as given. -/
def recovering (f : Fu) (r : NodeRec) : State :=
  { st .degraded with lv := bothFresh, fu := f, flc := { (st .degraded).flc with nodes := .of fun _ => r } }

theorem test_meets_RecoverJudged :
    Passes .b 0 lanePorts (st .run) ∧ (st .run).mode ≠ .degraded ∧ Passes .b 0 lanePorts (st .degraded) ∧
      (st .degraded).mode = .degraded ∧
      recoverUnmet (settle settleLimit (readmit (closeTransfer .b (st .degraded)))) = some 1 ∧
      Passes .b 0 lanePorts (recovering fuReset ⟨.lost, 0, 0, 0, 0, 0⟩) ∧
      recoverUnmet (settle settleLimit
        (readmit (closeTransfer .b (recovering fuReset ⟨.lost, 0, 0, 0, 0, 0⟩)))) = none ∧
      recoverUnmet (recovering { fuReset with capture := some capture } nodeReset) = some 2 ∧
      recoverUnmet (recovering { fuReset with status := 2 } nodeReset) = some 3 ∧
      recoverUnmet (recovering fuReset nodeReset) = some 4 :=
  ⟨passes_lane _ (by decide) .b, by decide, passes_lane _ (by decide) .b, rfl, by decide +kernel,
    ⟨by decide, by decide, rfl, rfl⟩, by decide +kernel, by decide +kernel, by decide +kernel, by decide +kernel⟩

theorem test_meets_RecoverJudged_conditions :
    (∀ x, ((recovering fuReset nodeReset).lv.lanes.get x).freshness = .fresh) ∧
      (∃ k, (recovering { fuReset with status := 2 } nodeReset).fu.has k = true ∧
        (recovering { fuReset with status := 2 } nodeReset).store.severity k ≠ .correctable) ∧
      (¬ ∃ k, (recovering fuReset nodeReset).fu.has k = true ∧
        (recovering fuReset nodeReset).store.severity k ≠ .correctable) ∧
      (¬ ∀ n, (recovering fuReset nodeReset).store.nodeFitted n = true →
        ((recovering fuReset nodeReset).flc.nodes.get n).state = .active) :=
  ⟨fun x => by cases x <;> rfl, ⟨.laneLost, by decide⟩, (by rintro ⟨k, h, -⟩; cases k <;> cases h),
    fun h => absurd (h (.brk .a) (by decide)) (by decide)⟩

/-! Faults -/

theorem test_meets_DetectionRecorded :
    (st .powerup).mode = .powerup ∧ (st .run).mode ≠ .powerup ∧
      (st .run).store.severity .laneStale = .correctable ∧ (st .run).store.severity .nodeLost ≠ .correctable ∧
      (st .run).fu.capture = none ∧ (faulty .run { fuReset with capture := some capture }).fu.capture ≠ none := by
  decide

theorem test_meets_DetectionRecorded_mode :
    modeAfter .degrade (st .run).mode ≠ (st .run).mode ∧ modeAfter .degrade (st .safeStop).mode = (st .safeStop).mode ∧
      (faulty .run { fuReset with capture := some capture }).mode.operating = true ∧
      (stored .run ⟨[(211, 1), (230, 0)]⟩).store.promote = false ∧ (st .run).store.promote = true ∧
      (stored .run ⟨[(209, 1)]⟩).store.masked .laneStale = true ∧ (st .run).store.masked .laneStale = false := by decide

theorem test_meets_CaptureAcknowledged :
    Passes .a 0 lanePorts (faulty .run { fuReset with capture := some capture }) ∧
      Store.default.severity .nodeLost ≠ .correctable := ⟨⟨by decide, by decide, rfl, rfl⟩, by decide⟩

theorem test_meets_FaultsCleared :
    Passes .b 0 lanePorts (faulty .degraded { fuReset with status := 0x403, log := some logged }) ∧
      2097152 ≤ (0x200000 : BitVec 24).toNat ∧ ((0x1FFFFF : BitVec 24) ≠ 0 ∧ (0x1FFFFF : BitVec 24).toNat < 2097152) ∧
      (faulty .degraded { fuReset with status := 0x403, log := some logged }).inFlight = [] ∧
      (faulty .degraded { fuReset with status := 0x403, log := some logged }).fu.log = some logged ∧
      (st .run).fu.log = none := ⟨⟨by decide, by decide, rfl, rfl⟩, by decide⟩

/-! Field link -/

/-- `st .run` with FLC as given. -/
def linked (m : Mode) (f : Flc) : State := { st m with flc := f }

/-- FLC with the timer run down, in or out of a round. -/
def running (inRound : Bool) : Flc := { flcReset testReset with phase := .polling, timer := some 0, inRound := inRound }

theorem test_meets_FieldCycleExpires :
    (linked .run (running true)).flc.timer ≠ none ∧ (linked .run (running true)).flc.inRound = true ∧
      (linked .run (running false)).flc.timer ≠ none ∧ (linked .run (running false)).flc.inRound = false ∧
      (st .run).flc.timer = none := by decide

/-- FLC about to poll `n`, with a self-test of JNT live or not. -/
def polling (n : Node) (live : Bool) : Flc :=
  { running true with left := [n], test := ⟨.running, .jnt, 0x1234, 12, 0, 0, none⟩, testLive := live }

theorem test_meets_CommandsFormed :
    (∀ n, (linked .service (polling n true)).flc.txn = none ∧
      (linked .service (polling n true)).flc.phase = .polling ∧ (linked .service (polling n true)).flc.inRound = true ∧
      (linked .service (polling n true)).flc.left = n :: []) ∧
      ((linked .service (polling .jnt true)).flc.testLive = true ∧
        (linked .service (polling .jnt true)).flc.test.result = .running ∧
        (linked .service (polling .jnt true)).flc.test.node = .jnt) ∧
      ¬ ((linked .service (polling .str false)).flc.testLive = true ∧
        (linked .service (polling .str false)).flc.test.result = .running ∧
        (linked .service (polling .str false)).flc.test.node = .str) :=
  ⟨fun _ => ⟨rfl, rfl, rfl, rfl⟩, by decide, by decide⟩

/-- `st .run` with every node of the round polled, the round-pending mark as given. -/
def roundOver (pending : Bool) : State := linked .run { running true with roundPending := pending, round := 65535 }

theorem test_meets_CommandsFormed_round :
    (∀ b, (roundOver b).flc.txn = none ∧ (roundOver b).flc.phase = .polling ∧ (roundOver b).flc.inRound = true ∧
      (roundOver b).flc.left = [] ∧ (roundOver b).flc.roundPending = b) ∧
      ((advance (roundOver true)).flc.round = 0 ∧ (advance (roundOver true)).flc.txn.isSome = true) ∧
      (advance (roundOver false)).flc.inRound = false ∧
      ((linked .run (running false)).flc.phase = .polling ∧ (linked .run (running false)).flc.inRound = false) ∧
      (st .run).flc.txn = some ⟨.brk .a, 1, .set, 0, 300, none⟩ :=
  ⟨fun b => ⟨rfl, rfl, rfl, rfl, rfl⟩, by decide +kernel⟩

/-- The transaction of `st m`. -/
def polled : Txn := ⟨.brk .a, 1, .set, 0, 300, none⟩

/-- `st .run` with BRK_A's follow count. -/
def following (n : Nat) : State :=
  { st .run with flc := { (st .run).flc with nodes := (st .run).flc.nodes.set (.brk .a) ⟨.active, 0, 0, n, 0, 0⟩ } }

theorem test_meets_GoodResponseTaken :
    (st .run).inFlight = [] ∧ InTransaction (st .run) polled ∧ ((3 : Fin 8) ≠ 0) :=
  ⟨rfl, ⟨rfl, by decide, by decide⟩, by decide⟩

theorem test_meets_GoodResponseTaken_faults :
    (st .run).mode ≠ .powerup ∧ ((3 : Fin 8) ≠ 4 ∧ (7 : Fin 8) ≠ 0 ∧ (7 : Fin 8) ≠ 3 ∧ (7 : Fin 8) ≠ 4) ∧
      ((following 19).flc.nodes.get (.brk .a)).follow = 19 ∧ InTransaction (following 19) polled ∧
      ((after (.fieldResponseReceived 0 41 0) (following 19)).flc.nodes.get (.brk .a)).follow = 20 ∧
      (after (.fieldResponseReceived 0 41 0) (following 19)).fu.has .followError = true ∧
      ((after (.fieldResponseReceived 0 40 0) (following 19)).flc.nodes.get (.brk .a)).follow = 0 ∧
      (after (.fieldResponseReceived 0 41 0) (following 20)).fu.has .followError = false :=
  ⟨by decide, by decide, rfl, ⟨rfl, by decide, by decide⟩, by decide +kernel⟩

theorem test_meets_GoodResponseTaken_kinds :
    polled.kind ≠ .echo ∧ (⟨.jnt, 5, .echo, 0x1234, 300, none⟩ : Txn).kind = .echo ∧
      (goodResponse ⟨.jnt, 5, .echo, 0x1234, 300, none⟩ 0 0x1234 0 (st .service)).mru.rateValid = false ∧
      (setNode (.brk .a) ⟨.active, 0, 0, 0, 0, 0⟩ (st .run)).inFlight = [.node (.brk .a) .active] ∧
      (setNode (.brk .a) nodeReset (st .run)).inFlight = [] := by decide +kernel

/-- `st .run` with BRK_A one miss from the limit and BRK_B LOST. -/
def missing : State :=
  linked .run { (st .run).flc with
    nodes := ((st .run).flc.nodes.set (.brk .a) ⟨.active, 2, 0, 0, 0, 0⟩).set (.brk .b) ⟨.lost, 3, 0, 0, 0, 0⟩ }

theorem test_meets_MissTaken :
    missing.inFlight = [] ∧ InTransaction missing polled ∧ missing.mode ≠ .powerup ∧
      missing.store.missLimit ≤ min 255 ((missing.flc.nodes.get polled.node).misses + 1) ∧
      (missing.flc.nodes.get polled.node).state ≠ .lost ∧ polled.node = .brk .a ∧ Axle.b ≠ Axle.a ∧
      (missing.flc.nodes.get (.brk .b)).state = .lost :=
  ⟨rfl, ⟨rfl, by decide, by decide⟩, by decide⟩

/-- What a miss hands on: of a brake SET transaction its end, of a joint transaction the emptied history, of another
nothing. -/
theorem test_meets_MissTaken_handed :
    (missResponse polled .silent (st .run)).mru.latest = (st .run).flc.round ∧
      (missResponse ⟨.jnt, 5, .set, 0, 300, none⟩ .silent (st .run)).inFlight = [.theta 0 0 false false] ∧
      (missResponse ⟨.str, 4, .set, 0, 300, none⟩ .silent (st .run)).inFlight = [] := by decide +kernel

/-- A miss that makes BRK_A LOST beside BRK_B raises BRAKE_CAPACITY; one short of the limit raises FIELD_MISS alone. -/
theorem test_meets_MissTaken_raised :
    (missResponse polled .silent missing).fu.has .brakeCapacity = true ∧
      (missResponse polled .silent (st .run)).fu.has .nodeLost = false ∧
      (missResponse polled .silent (st .run)).fu.has .fieldMiss = true := by decide +kernel

/-- A SHUTDOWN transaction, with a code received or none. -/
def shutting (code : Option (Fin 8)) : Txn := ⟨.brk .a, 1, .shutdown, 0, 16, code⟩

theorem test_meets_ShutdownAcknowledged :
    InShutdown (linked .standby { flcReset testReset with txn := some (shutting none) }) (shutting none) ∧
      InShutdown (linked .standby { flcReset testReset with txn := some (shutting (some 7)) }) (shutting (some 7)) ∧
      (linked .standby { flcReset testReset with txn := some (shutting none) }).inFlight = [] ∧ (1 : Fin 8) ≠ 0 ∧
      (st .standby).mode ≠ .powerup :=
  ⟨⟨rfl, rfl⟩, ⟨rfl, rfl⟩, rfl, by decide, by decide⟩

theorem test_meets_SelfTestTaken :
    Passes .a 0 lanePorts (st .run) ∧ (st .run).mode ≠ .service ∧
      Passes .a 0 lanePorts (linked .service (polling .jnt true)) ∧
      (linked .service (polling .jnt true)).flc.test.result = .running ∧ Passes .a 0 lanePorts (st .service) ∧
      (st .service).mode = .service ∧ (st .service).flc.test.result ≠ .running ∧
      nodeNo (.lvl .cr) = (10 : Byte).toNat ∧ (st .service).store.nodeFitted (.lvl .cr) = true ∧
      (∀ n, nodeNo n = (11 : Byte).toNat → (st .service).store.nodeFitted n = false) :=
  ⟨passes_lane _ (by decide) .a, by decide, ⟨by decide, by decide, rfl, rfl⟩, rfl, passes_lane _ (by decide) .a, rfl,
    by decide, rfl, by decide, fun n h => by
      rcases n with x | _ | _ | k
      · cases x <;> cases h
      · cases h
      · cases h
      · cases k <;> cases h⟩

/-- `st m` with no transaction in flight and the link in a phase. -/
def phased (m : Mode) (p : LinkPhase) : State := linked m { flcReset testReset with phase := p }

theorem test_meets_ShutdownAcknowledged_phases :
    (phased .standby (.shutdown [.lvl .cr] false)).flc.txn = none ∧
      (phased .standby (.shutdown [.lvl .cr] false)).flc.phase = .shutdown (.lvl .cr :: []) false ∧
      (phased .standby (.shutdown [] false)).flc.phase = .shutdown [] false ∧
      (phased .standby .stopped).flc.phase = .stopped ∧
      (phased .run (.shutdown [] true)).flc.phase = .shutdown [] true := ⟨rfl, rfl, rfl, rfl, rfl⟩

/-- Field events with no transaction of their kind in flight. -/
theorem test_meets_field_events_outside :
    (phased .standby .stopped).flc.txn = none ∧
      (∀ x, (linked .standby { flcReset testReset with txn := some (shutting none) }).flc.txn = some x →
        x.kind = .shutdown) ∧
      ∀ x, (st .run).flc.txn = some x → x.kind ≠ .shutdown :=
  ⟨rfl, fun x h => by cases h; rfl, fun x h => by cases h; decide⟩

/-- `st .service` with a self-test of JNT whose 12th ECHO is due. -/
def testing (mismatch : Option Nat) (due : Bool) : State :=
  linked .service { flcReset testReset with
    test := ⟨.running, .jnt, 0x1234, 12, 11, 11, mismatch⟩
    abortDue := due }

theorem test_meets_SelfTestTaken_end :
    (testing none false).flc.test.sent + 1 = (testing none false).flc.test.count ∧
      (testing none false).flc.abortDue = false ∧ (testing none true).flc.abortDue = true ∧
      (echoEnd true true (testing none false)).flc.test.result = .pass ∧
      (echoEnd true true (testing (some 1) false)).flc.test.result = .fail ∧
      (echoEnd false false (testing none false)).flc.test.mismatch = some 12 ∧
      (echoEnd true true (testing none true)).flc.test.result = .running ∧
      (st .service).flc.test.sent + 1 ≠ (st .service).flc.test.count ∧ (⟨.jnt, 5, .echo, 0, 300, none⟩ : Txn).kind = .echo ∧
      (testing none false).flc.test.result = .running ∧ (testing none false).flc.txn = none ∧
      (linked .service { (testing none false).flc with txn := some polled }).flc.txn ≠ none ∧
      Mode.safeStop ≠ .standby ∧ (st .service).flc.test.result ≠ .running := by decide +kernel

/-- `st .config` with the joint damper not fitted, a transaction with its node in flight and its self-test to abort. -/
def unfitted (kind : CmdKind) : State :=
  { linked .config { (testing none true).flc with phase := .polling, txn := some ⟨.jnt, 5, kind, 0x1234, 300, none⟩ } with
    mc := { (st .config).mc with store := Store.default.put 36 0 } }

theorem test_meets_SelfTestTaken_unfitted :
    (∀ k, (unfitted k).flc.txn = some ⟨.jnt, 5, k, 0x1234, 300, none⟩ ∧ (unfitted k).store.nodeFitted .jnt = false) ∧
      (after (.fieldResponseReceived 0 0x1234 0) (unfitted .echo)).flc.test = ⟨.aborted, .jnt, 0x1234, 12, 12, 12, none⟩ ∧
      (after (.responseWindowEnd .silent) (unfitted .echo)).flc.test = ⟨.aborted, .jnt, 0x1234, 12, 12, 11, some 12⟩ ∧
      (after (.responseWindowEnd .silent) (unfitted .set)).flc.test = ⟨.aborted, .jnt, 0x1234, 12, 11, 11, none⟩ ∧
      (after (.responseWindowEnd .silent) (unfitted .echo)).fu = (st .config).fu :=
  ⟨fun k => by cases k <;> exact ⟨rfl, by decide +kernel⟩, by decide +kernel⟩

/-! Doors -/

theorem test_meets_DoorStatusTaken : Passes .d 0 doorPort (st .config) ∧ (st .config).inFlight = [] :=
  ⟨passes_door _ (by decide), rfl⟩

/-- DSV with door 1's contact CLOSED and its report OPEN. -/
def opposed (raised : Bool) : Dsv :=
  { dsvReset Store.default with
    contacts := .of fun _ => ⟨true, 0⟩
    reports := .of fun _ => .opened
    raised := .of fun _ => raised }

theorem test_meets_DoorStatesFormed :
    ((st .run).store.doorFitted .d4 = true ∧
        ((((opposed false).contacts.get .d4).closed = true ∧ ((opposed false).reports.get .d4 = .opened ∨
          (opposed false).reports.get .d4 = .obstructed)) ∨
        (((opposed false).contacts.get .d4).closed = false ∧ (opposed false).reports.get .d4 = .closedLocked))) ∧
      (opposed false).raised.get .d4 = false ∧ (opposed true).raised.get .d4 = true ∧
      ¬ ((dsvReset Store.default).contacts.get .d1).closed = true ∧
      (formDoors (opposed false) (st .run)).dsv.unsecured = (st .run).dsv.unsecured ∧
      (formDoors { opposed false with reports := .of fun _ => .closedLocked } (st .run)).dsv.unsecured ≠
        (st .run).dsv.unsecured := by decide

/-- `st .run` with MRU's at_rest and the copy of DREL_1 as given, the outputs as they give them. -/
def releasing (rest on : Bool) : State :=
  { st .run with
    mru := { mruReset with atRest := rest }
    dsv := { dsvReset Store.default with
      atRest := rest
      releaseOn := ⟨on, false, false, false⟩
      outputs := ⟨on && rest, false, false, false⟩ } }

theorem test_meets_DoorStatesFormed_outputs :
    (handle (.channel (.drel .d1) none .on true) (releasing true false)).dsv.outputs ≠ (releasing true false).dsv.outputs ∧
      (handle (.channel (.drel .d1) none .on true) (releasing false false)).dsv.outputs =
        (releasing false false).dsv.outputs ∧
      (handle (.channel (.drel .d1) none .off true) (releasing true true)).dsv.outputs ≠ (releasing true true).dsv.outputs ∧
      (releasing true true).mru.atRest = true ∧ (releasing true true).mru.atRest ≠ false ∧
      (ictKneel .normal (bauFloor (st .run).bau.doors .normal (st .run))).dsv.kneel = .normal ∧
      (ictKneel .lowering (bauFloor (st .run).bau.doors .lowering (st .run))).dsv.kneel ≠ .lowering := by decide +kernel

/-- `st .run` with every contact one sample from a change. -/
def closing : State :=
  { st .run with dsv := { dsvReset Store.default with contacts := .of fun _ => ⟨false, 9⟩ } }

theorem test_meets_ContactsSampled :
    (st .powerup).mode = .powerup ∧ closing.mode ≠ .powerup ∧ closing.inFlight = [] ∧
      false = (closing.dsv.contacts.get .d1).closed ∧
      (true ≠ (closing.dsv.contacts.get .d1).closed ∧
        closing.store.debounce ≤ (closing.dsv.contacts.get .d1).run + 1) ∧
      (true ≠ ((st .run).dsv.contacts.get .d1).closed ∧
        ((st .run).dsv.contacts.get .d1).run + 1 < (st .run).store.debounce) := by decide

/-- `closing` with every report CLOSED_LOCKED, so that a closed contact secures its door. -/
def securing : State :=
  { closing with dsv := { closing.dsv with reports := .of fun _ => .closedLocked } }

theorem test_meets_ContactsSampled_announced :
    (sampleContact .d1 true closing).dsv.unsecured = closing.dsv.unsecured ∧
      (sampleContact .d1 true securing).dsv.unsecured ≠ securing.dsv.unsecured ∧
      (true ≠ (securing.dsv.contacts.get .d1).closed ∧
        securing.store.debounce ≤ (securing.dsv.contacts.get .d1).run + 1) ∧
      (∀ n, (PerDoor.of fun _ => false : PerDoor Bool).get n = (closing.dsv.contacts.get n).closed) ∧
      ∀ n, ((st .run).dsv.contacts.get n).run + 1 < (st .run).store.debounce :=
  ⟨by decide, by decide, by decide, fun n => by cases n <;> rfl, fun n => by cases n <;> decide⟩

/-- `st .run` with the staleness timer and door 1's disagreement timer run down. -/
def doorsTimed : State :=
  { st .run with dsv := { dsvReset Store.default with stale := some 0, disagree := ⟨some 0, none, none, none⟩ } }

theorem test_meets_DoorTimersExpire :
    doorsTimed.dsv.stale ≠ none ∧ doorsTimed.inFlight = [] ∧ doorsTimed.mode ≠ .powerup ∧ (st .run).dsv.stale = none ∧
      doorsTimed.dsv.disagree.get .d1 ≠ none ∧ doorsTimed.dsv.disagree.get .d4 = none := by decide

theorem test_meets_DoorTimersExpire_heard :
    doorsTimed.dsv.since = none ∧
      { doorsTimed with dsv := { doorsTimed.dsv with since := some 65535 } }.dsv.since = some 65535 := by decide

theorem test_meets_DoorRequestsTaken :
    Passes .d 0 doorPort (st .standby) ∧ (st .standby).mode.operating = false ∧ Passes .d 0 doorPort (st .safeStop) ∧
      (st .safeStop).mode.operating = true ∧ doorNo .d4 = (4 : Byte).toNat ∧ (st .safeStop).store.doorFitted .d4 = true ∧
      (∀ n, doorNo n = (0 : Byte).toNat → (st .safeStop).store.doorFitted n = false) ∧
      (∀ n, doorNo n = (5 : Byte).toNat → (st .safeStop).store.doorFitted n = false) :=
  ⟨passes_door _ (by decide), rfl, passes_door _ (by decide), rfl, rfl, by decide,
    fun n h => (by cases n <;> cases h), fun n h => (by cases n <;> cases h)⟩

/-! Motion, level and modes -/

/-- `st .run` with every timer of MRU and LKU run down, and the kneel state as given. -/
def timed (k : KneelState) : State :=
  { st .run with
    mru := { mruReset with settle := some 0 }
    lku := { lkuReset with
      corners := .of fun _ => ⟨.hold, none, none, .num 0, false, some (.low, 0), some 0⟩
      kneel := k
      kneelTimer := some 0 } }

theorem test_meets_MotionTimersExpire :
    (timed .lowering).mru.settle ≠ none ∧ (timed .lowering).mru.atRest = false ∧ (st .run).mru.settle = none ∧
      ((timed .lowering).lku.corners.get .al).persist = some (.low, 0) ∧
      ((st .run).lku.corners.get .al).persist = none ∧ ((timed .lowering).lku.corners.get .cr).valveRun ≠ none ∧
      ((st .run).lku.corners.get .cr).valveRun = none ∧ (timed .lowering).lku.kneelTimer ≠ none ∧
      (timed .lowering).lku.kneel = .lowering ∧ (timed .raising).lku.kneel = .raising ∧
      (timed .lowering).mode ≠ .powerup ∧ (st .run).lku.kneelTimer = none := by decide

theorem test_meets_WindowsAndMarksRunOut : ready.mc.ready.get .a ≠ none ∧ ready.mc.ready.get .b = none := by decide

/-- MRU with the slots given, all of the latest round. -/
def rolling (a b c : Option Sample) : Mru := { mruReset with slots := ⟨a, b, c⟩, latest := 2 }

theorem test_meets_SpeedAndRateFormed :
    validSpeeds mruReset = [] ∧ validSpeeds (rolling (some ⟨7, 0⟩) none none) = [7] ∧
      validSpeeds (rolling (some ⟨7, 2⟩) (some ⟨1200, 1⟩) none) = [7, 1200] ∧
      validSpeeds (rolling (some ⟨7, 2⟩) (some ⟨0, 2⟩) (some ⟨9, 2⟩)) = [7, 0, 9] ∧ 0 < Store.default.histDepth ∧
      { mruReset with history := List.replicate 20 3 }.history.length = Store.default.histDepth ∧
      { mruReset with history := List.replicate 19 3 }.history.length < Store.default.histDepth := by decide

/-- MRU at the latest round, with BRK_A's sample of a round, a speed known before and at_rest as given. -/
def aged (latest round : Nat) (v : Int) (rest : Bool) : Mru :=
  { mruReset with slots := ⟨some ⟨v, round⟩, none, none⟩, latest := latest, speedKnown := true, atRest := rest }

theorem test_meets_SpeedAndRateFormed_age :
    (aged 1 65535 7 false).slots.get .a = some ⟨7, 65535⟩ ∧ (aged 1 65535 7 false).slots.get .b = none ∧ 65535 < 65536 ∧
      ((1 : Int) - 65535) % 65536 ≤ 2 ∧ 2 < ((2 : Int) - 65535) % 65536 ∧
      validSpeeds (aged 1 65535 7 false) = [7] ∧ validSpeeds (aged 2 65535 7 false) = [] ∧
      validSpeeds { aged 1 65535 7 false with nodeState := ⟨.lost, .active, .unpolled⟩ } = [] := by decide

theorem test_meets_SpeedAndRateFormed_rest :
    ((aged 1 1 4 false).speedKnown = true ∧ (mruFormed (aged 5 1 4 false)).speedKnown = false) ∧
      ((mruFormed (aged 1 1 4 false)).speedKnown = true ∧ (mruFormed (aged 1 1 4 false)).v < 5) ∧
      ¬ ((mruFormed (aged 1 1 5 true)).speedKnown = true ∧ (mruFormed (aged 1 1 5 true)).v < 5) ∧
      (aged 1 1 4 false).atRest = false ∧ (aged 1 1 5 true).atRest = true ∧
      (mruRecompute (aged 1 1 4 false) (st .run)).mru.settle = some (st .run).store.tRest ∧
      (mruRecompute (aged 1 1 4 true) (st .run)).mru.atRest = true ∧
      (mruRecompute (aged 1 1 5 true) (st .run)).inFlight = [.speed 5 true, .atRest false] ∧
      (mruRecompute (aged 5 1 4 true) (st .run)).fu.has .speedUnknown = true := by decide +kernel

/-- The formed speed is lost with BRK_A's slot holding a value and with no slot holding one. -/
theorem test_meets_SpeedAndRateFormed_lost :
    (aged 5 1 4 true).slots.get .a = some ⟨4, 1⟩ ∧ (aged 5 1 4 true).slots.get .b = none ∧
      (formSpeed (aged 5 1 4 true) (st .run)).freeCount = (st .run).freeCount + 1 ∧
      (mruFormed { mruReset with speedKnown := true }).speedKnown = false := by decide +kernel

theorem test_meets_MotionTimersExpire_rest :
    (aged 5 1 4 true).atRest = true ∧ (mruFormed (aged 5 1 4 true)).speedKnown = false ∧
      5 ≤ (mruFormed (aged 1 1 5 true)).v ∧ (mruFormed (aged 1 1 5 true)).speedKnown = true := by decide

/-- `st .service` about to poll STR_C with an ECHO. -/
def echoing : State :=
  linked .service { polling .str true with test := ⟨.running, .str, 0x1234, 12, 0, 0, none⟩ }

theorem test_meets_SteerLawFormed_poll :
    echoing.flc.left = .str :: [] ∧ (linked .run (polling .str false)).flc.left = .str :: [] ∧
      (echoing.flc.testLive = true ∧ echoing.flc.test.result = .running ∧ echoing.flc.test.node = .str) ∧
      ¬ ((linked .run (polling .str false)).flc.testLive = true ∧
        (linked .run (polling .str false)).flc.test.result = .running ∧
        (linked .run (polling .str false)).flc.test.node = .str) ∧
      (phased .standby (.shutdown (.str :: []) false)).flc.txn = none ∧
      (phased .standby (.shutdown (.str :: []) false)).flc.phase = .shutdown (.str :: []) false ∧
      (Source.emerg ≠ .lane ∧ Source.emerg ≠ .safe ∧ Source.emerg ≠ .centre) := by decide

/-- `st .run` with the joint at an angle, the angle condition and the mark of an ENTER_RUN as given. -/
def folded (th : Int) (c : Centring) (entered : Bool) : State :=
  { st .run with sju := { sjuReset Store.default 0 false with theta := th, centring := c, entered := entered } }

theorem test_meets_JointLawRuns_claims :
    (folded 0 ⟨false, false, false, false⟩ true).sju.entered = true ∧ (st .run).sju.entered = false ∧
      (folded 0 ⟨false, false, false, true⟩ true).sju.centring.follow = true ∧
      ¬ ((st .run).sju.centring.mode = true ∨ (st .run).sju.centring.angle = true ∨
        (st .run).sju.centring.node = true ∨ (st .run).sju.centring.follow = true) ∧
      (⟨true, false, false, false⟩ : Centring) ≠ (st .run).sju.centring ∧
      (st .run).store.thetaMax < |(folded (-551) ⟨false, false, false, false⟩ true).sju.theta| ∧
      |(folded 550 ⟨false, true, false, false⟩ true).sju.theta| ≤ (st .run).store.thetaMax ∧
      (judgeExcursion (folded (-551) ⟨false, false, false, false⟩ true)).holder .str = some .centre ∧
      (judgeExcursion (folded (-551) ⟨false, true, false, false⟩ true)).fu.has .articLimit = false ∧
      (judgeExcursion (folded 550 ⟨false, true, false, false⟩ true)).sju.centring.angle = false ∧
      (runJoint (folded 0 ⟨false, false, false, false⟩ true)).holder .jnt = some .joint := by decide +kernel

/-- SJU in ACTIVE at a known speed. -/
def steering (v : Int) : Sju :=
  { sjuReset Store.default 120 false with steer := .active, theta := 600, angle := -500, speedKnown := true, v := v }

theorem test_meets_SteerLawFormed :
    (steering 0).steer = .active ∧ |(steering 0).theta| ≤ 600 ∧ |(steering 0).angle| ≤ 500 ∧
      |Store.default.gTheta| ≤ 2048 ∧ |Store.default.gF| ≤ 2048 ∧ Store.default.v1 < Store.default.v2 ∧
      (steering 150).v ≤ Store.default.v1 ∧ Store.default.v2 ≤ (steering 300).v ∧
      (Store.default.v1 < (steering 151).v ∧ (steering 151).v ≤ Store.default.v2 - 1) ∧
      (Store.default.v1 < (steering 299).v ∧ (steering 299).v ≤ Store.default.v2 - 1) ∧
      0 ≤ Store.default.rLim ∧ |(steering 0).lastSent| ≤ Store.default.deltaMax ∧
      Store.default.rLim < (steering 0).lastSent - (steering 0).effective ∧
      Store.default.rLim < { steering 0 with effective := 126 }.effective - (steering 0).lastSent ∧
      |{ steering 0 with effective := 115 }.effective - (steering 0).lastSent| ≤ Store.default.rLim := by
  decide +kernel

/-- BAU with the lost-axle set given. -/
def braking (lost : PerAxle Bool) : Bau := { bauReset Store.default with lost := lost }

theorem braking_load (l : PerAxle Bool) (x : Axle) : 0 < (braking l).load.get x := by
  have h : ∀ y, (0 : Int) < (bauReset Store.default).load.get y := fun y => by cases y <;> decide +kernel
  exact h x

theorem test_meets_BrakePressureFormed :
    (∀ l x, 0 < (braking l).load.get x) ∧ (∀ x, (braking ⟨false, false, false⟩).lost.get x = false) ∧
      ((∃ x, (braking ⟨true, false, false⟩).lost.get x = true) ∧
        ∃ x, (braking ⟨true, false, false⟩).lost.get x = false) ∧
      ((braking ⟨false, true, true⟩).lost.get .a = false ∧
        ∀ y, y ≠ .a → (braking ⟨false, true, true⟩).lost.get y = true) ∧
      (∀ y, (braking ⟨true, true, true⟩).lost.get y = true) ∧ (1 : Int) ≠ 0 ∧
      (braking ⟨false, false, false⟩).atRest = false ∧ Store.entryKind ⟨[(88, 0)]⟩ 0 = .halt ∧
      Store.entryKind Store.default 0 ≠ .halt ∧ Axle.b ≠ Axle.a :=
  ⟨braking_load, fun x => by cases x <;> rfl, ⟨⟨.a, rfl⟩, ⟨.b, rfl⟩⟩,
    ⟨rfl, fun y h => by cases y <;> first | rfl | exact absurd rfl h⟩, fun y => by cases y <;> rfl, by decide, rfl,
    by decide +kernel, by decide +kernel, by decide⟩

/-- `st .run` with BAU's samples of axle C, its load, a demand and no mode change since. -/
def loaded (l r : Option Int) (load demand : Int) : State :=
  { st .run with bau := { bauReset Store.default with
      mode := .run
      demand := demand
      samples := ⟨none, none, none, none, l, r⟩
      load := ⟨800, 800, load⟩ } }

theorem test_meets_BrakePressureFormed_inputs :
    (gateOpen Store.default lkuReset .a = true ∧ gateOpen Store.default { lkuReset with kneel := .lowering } .a = false) ∧
      (loaded none (some 400) 800 0).bau.samples.cl = none ∧ (loaded (some 400) none 800 0).bau.samples.cr = none ∧
      (loaded (some 400) (some 400) 800 0).bau.samples.get (axleLeft .c) = some 400 ∧
      (loaded (some 400) (some 400) 800 0).bau.samples.get (axleRight .c) = some 400 ∧
      loadEstimate Store.default .c 400 400 ≠ (loaded (some 400) (some 400) 801 0).bau.load.get .c ∧
      loadEstimate Store.default .c 0 0 = (loaded (some 0) (some 0) 400 0).bau.load.get .c ∧
      (st .run).bau.lost.get .a = decide (NodeState.active = .lost) ∧
      (st .run).bau.lost.get .a ≠ decide (NodeState.lost = .lost) ∧
      ((st .run).bau.floor = floorStands (st .run).store (st .run).dsv.unsecured .normal ∧
        (st .run).bau.floor ≠ floorStands (st .run).store (.of fun _ => false) .normal) := by decide +kernel

theorem test_meets_BrakePressureFormed_saturation :
    (loaded none none 2500 800).bau.saturated.get .c = false ∧
      (bauRecompute (loaded none none 2500 800)).bau.saturated.get .c = true ∧
      (bauRecompute (loaded none none 2500 800)).fu.has .brakeSaturated = true ∧
      (bauRecompute (loaded none none 800 0)).bau.saturated = ⟨false, false, false⟩ ∧
      (loaded none none 2500 800).mode ≠ .powerup := by decide +kernel

/-- BAU once the load of axle C has taken the share of 800 kPa past 850 kPa with axle A lost: a demand that saturates. -/
def pressed : State :=
  let s := loaded none none 2500 800
  { s with bau := { s.bau with lost := ⟨true, false, false⟩, saturated := ⟨false, false, true⟩ } }

theorem test_meets_BrakePressureFormed_raised :
    (PerAxle.of fun _ => false : PerAxle Bool).get .c = false ∧ pressed.bau.saturated.get .c = true ∧ (0 : Int) ≤ 800 ∧
      800 ∈ saturating pressed.store pressed.bau .c ∧
      ∀ d' ∈ saturating pressed.store pressed.bau .c, d' ≤ 800 := by decide +kernel

theorem test_meets_BrakePressureFormed_announced :
    ((st .run).bau.demand = 0 ∧ (st .run).bau.demand ≠ 1) ∧ ((st .run).bau.emerg = false ∧ (st .run).bau.emerg ≠ true) ∧
      ((st .run).bau.atRest = false ∧ (st .run).bau.atRest ≠ true) ∧
      (st .run).bau.load.get .a = clamp ((st .run).store.lMin .a) ((st .run).store.lMax .a) ((st .run).store.nA .a) ∧
      (loaded none none 2500 0).bau.load.get .c ≠
        clamp ((st .run).store.lMin .c) ((st .run).store.lMax .c) ((st .run).store.nA .c) := by decide +kernel

/-- `stored .run` with P0 on BRK_A and BRK_B, of the kind given. -/
def giving (kind : Int) : State :=
  { stored .run ⟨[(86, 3), (88, kind)]⟩ with mc := { (stored .run ⟨[(86, 3), (88, kind)]⟩).mc with locked := true } }

theorem test_meets_BrakePressureFormed_given :
    accepts (giving 327681) (.entry (.prog 0)) (.brk .a) = true ∧
      accepts (giving 327681) (.entry (.prog 0)) (.brk .b) = true ∧
      (giving 327681).store.entryKind 0 = .value 1 ∧ (stored .run ⟨[(86, 2)]⟩).store.entryKind 0 = .holdPresent ∧
      accepts (stored .run ⟨[(86, 2)]⟩) (.entry (.prog 0)) (.brk .b) = true ∧
      (stored .run ⟨[(86, 2)]⟩).effective (.brk .b) = .num 250 ∧ (Axle.c ≠ Axle.b ∨ (0 : Fin 12) ≠ 0) ∧
      givenValue (placeClaim (.entry (.prog 0)) (.brk .b) (giving 327681)).bau .b 0 = some 1 := by decide +kernel

/-- A corner with a target of 0 and its valve as given. -/
def corner (v : Valve) : CornerState := ⟨v, none, some .lane, .num 0, false, none, none⟩

theorem test_meets_LevelLawsRun_corner :
    { lkuReset with level := .high, speedKnown := true, v := 300 }.v ≤ Store.default.vHighMax ∧
      Store.default.vHighMax < { lkuReset with level := .high, speedKnown := true, v := 301 }.v ∧
      (corner .hold).effective = .num 0 ∧ (corner .hold).nodeLost = false ∧ (corner .hold).valve = .hold ∧
      (0 - Store.default.db ≤ 8 ∧ (8 : Int) ≤ 0 + Store.default.db) ∧ -9 < 0 - Store.default.db ∧
      (¬ (9 : Int) < 0 - Store.default.db ∧ 0 + Store.default.db < (9 : Int)) ∧ (corner .fill).valve = .fill ∧
      (corner .exhaust).valve = .exhaust := by decide

/-- `st .run` with a kneel state, every corner's holder and height, and a target of 0. -/
def kneeling (k : KneelState) (h : Option Source) (height : Int) : State :=
  { st .run with lku := { lkuReset with
      kneel := k
      corners := .of fun _ => ⟨.hold, some height, h, .num 0, false, none, none⟩ } }

theorem test_meets_LevelLawsRun_kneel :
    (st .run).store.inGroup .al = false ∧ (st .run).store.inGroup .ar = true ∧
      (judgeKneel .ar (kneeling .normal (some .doorKneel) 0)).lku.kneel = .lowering ∧
      (judgeKneel .ar (kneeling .normal none 0)).lku.kneel = .normal ∧
      (judgeKneel .ar (kneeling .lowering (some .doorKneel) (-62))).lku.kneel = .kneeled ∧
      (judgeKneel .ar (kneeling .lowering (some .doorKneel) (-61))).lku.kneel = .lowering ∧
      (judgeKneel .ar (kneeling .lowering none (-70))).lku.kneel = .raising ∧
      (judgeKneel .ar (kneeling .kneeled (some .doorKneel) (-70))).lku.kneel = .kneeled ∧
      (judgeKneel .ar (kneeling .kneeled none (-70))).lku.kneel = .raising ∧
      (judgeKneel .ar (kneeling .raising (some .doorKneel) 0)).lku.kneel = .lowering ∧
      (judgeKneel .ar (kneeling .raising none (-8))).lku.kneel = .normal ∧
      (judgeKneel .ar (kneeling .raising none (-9))).lku.kneel = .raising := by decide

theorem test_meets_MotionTimersExpire_group :
    (Corner.ar ∈ (st .run).store.groupList ∧ (st .run).store.groupList.head? = some .ar) ∧
      arrived (st .run).store (kneeling .lowering (some .doorKneel) (-61)).lku .ar = false ∧
      (∀ j ∈ (st .run).store.groupList, ¬ cornerNo j < cornerNo .ar) ∧
      (∀ k ∈ (st .run).store.groupList, arrived (st .run).store (kneeling .lowering (some .doorKneel) (-62)).lku k = true) ∧
      (∀ k ∈ (st .run).store.groupList, arrived (st .run).store (kneeling .raising none (-8)).lku k = true) ∧
      arrived (st .run).store (kneeling .raising none (-9)).lku .ar = false := by decide

theorem test_meets_LevelLawsRun_claims :
    hLaneOf (st .run).store { lkuReset with level := .low } ≠ lkuReset.hLane ∧
      hLaneOf (st .run).store lkuReset = lkuReset.hLane ∧ Mode.run ≠ .standby ∧ (Setpoint.num 0 ≠ .holdPresent) ∧
      NodeState.active ≠ .lost ∧ (Source.doorKneel ≠ .lane ∧ Source.doorKneel ≠ .entry (.fixed .f3)) ∧
      (∀ e, Source.doorKneel ≠ .entry (.prog e)) ∧
      (Store.entryKind ⟨[(86, 2048), (88, 196608)]⟩ 0 = .followBase ∧
        Store.entryTargets ⟨[(86, 2048), (88, 196608)]⟩ 0 (.lvl .al) = false ∧
        Store.entryTargets ⟨[(86, 32), (88, 196608)]⟩ 0 (.lvl .al) = true) ∧
      ((lkuNode .al .lost (kneeling .normal none 3)).lku.corners.get .al).nodeLost = true :=
  ⟨by decide +kernel, by decide +kernel, by decide, by decide, by decide, by decide, (fun _ h => nomatch h),
    by decide +kernel, by decide +kernel⟩

/-- P0 armed on SPEED ABOVE 20 with hysteresis 5, targeting BRK_A in RUN. -/
def speedEntry : Store := ⟨[(82, 20), (83, 5), (85, 1), (86, 1)]⟩

/-- ICT in RUN at a speed, with P0's truth. -/
def judging (v : Int) (truth : BitVec 16) : Ict :=
  { ictReset Store.default with mode := .run, speedKnown := true, v := v, truth := truth }

theorem test_meets_EntriesJudged :
    armed speedEntry true (.prog 0) = true ∧ armed speedEntry false (.prog 0) = false ∧
      modeIn (judging 0 0).mode (entryFields speedEntry (.prog 0)).modes = true ∧
      modeIn .safeStop (entryFields speedEntry (.prog 0)).modes = false ∧
      (entryFields speedEntry (.prog 0)).comparison = .above ∧
      (judging 21 0).isTrue (.prog 0) = false ∧ (judging 15 16).isTrue (.prog 0) = true ∧
      judged speedEntry true (judging 21 0) (.prog 0) = true ∧
      judged speedEntry true (judging 20 0) (.prog 0) = false ∧
      judged speedEntry true (judging 16 16) (.prog 0) = true ∧
      judged speedEntry true (judging 15 16) (.prog 0) = false ∧
      (entryFields ⟨[(81, 1)]⟩ (.prog 0)).comparison = .below ∧
      (entryFields Store.default (.fixed .f0)).comparison = .any ∧
      (entryFields Store.default (.fixed .f1)).comparison = .none ∧
      (entryFields Store.default (.fixed .f0)).watched = .doorsUnsecured := by decide +kernel

theorem test_meets_EntriesJudged_turn :
    judged (st .run).store (st .run).mc.locked (judging 0 0) (.fixed .f0) ≠ (judging 0 0).isTrue (.fixed .f0) ∧
      judged (st .run).store (st .run).mc.locked (judging 0 0) (.fixed .f0) = true ∧
      judged (st .run).store (st .run).mc.locked (judging 0 4) (.fixed .f2) ≠ (judging 0 4).isTrue (.fixed .f2) ∧
      judged (st .run).store (st .run).mc.locked (judging 0 4) (.fixed .f2) = false ∧
      judged (st .run).store (st .run).mc.locked (judging 0 1) (.fixed .f0) = (judging 0 1).isTrue (.fixed .f0) := by
  decide +kernel

/-- Items 80: the quantity that P0 watches. -/
theorem test_meets_EntriesJudged_quantities :
    (progFields ⟨[]⟩ 0).watched = .speed ∧ (progFields ⟨[(80, 1)]⟩ 0).watched = .atRest ∧
      (progFields ⟨[(80, 2)]⟩ 0).watched = .articAbs ∧ (progFields ⟨[(80, 3)]⟩ 0).watched = .doorsUnsecured ∧
      (progFields ⟨[(80, 4)]⟩ 0).watched = .kneelNotNormal ∧ (progFields ⟨[(80, 5)]⟩ 0).watched = .brakeDemand ∧
      (progFields ⟨[(80, 6)]⟩ 0).watched = .emerg ∧ (ictReset Store.default).speedKnown = false ∧
      entryValue (ictReset Store.default) (progFields ⟨[]⟩ 0) = 1200 ∧ Mode.safeStop ≠ .standby := by decide

theorem test_meets_EntriesJudged_fields :
    (Store.get ⟨[]⟩ (80 + 9 * (0 : Fin 12).val + 0) = (0 : Nat) ∧
        Store.get ⟨[(179, 6)]⟩ (80 + 9 * (11 : Fin 12).val + 0) = (6 : Nat)) ∧
      ((progFields ⟨[(179, 6)]⟩ 11).watched = .emerg ∧ (progFields ⟨[(180, 3)]⟩ 11).comparison = .none) ∧
      Store.get ⟨[(180, 3)]⟩ (80 + 9 * (11 : Fin 12).val + 1) = (3 : Nat) ∧
      Store.get ⟨[(88, 0)]⟩ 88 = 65536 * (0 : Nat) ∧ Store.get ⟨[]⟩ 88 = 65536 * (4 : Nat) ∧
      Store.get ⟨[(88, 393215)]⟩ 88 = 65536 * 5 + (((0xFFFF : Word).toNat : Nat) : Int) ∧
      (progFields ⟨[(88, 393215)]⟩ 0).kind = .value (-1) ∧ armed Store.default false (.fixed .f3) = true ∧
      armed ⟨[(43, 0)]⟩ true (.fixed .f3) = false := by decide +kernel

/-! Laws that every step keeps: a state that keeps each and takes a step -/

theorem test_meets_StepKeeps_step : ∃ t, step waiting = .next t := ⟨_, rfl⟩

theorem test_meets_StepKeepsNoticeQueues : QueuesOk waiting := fun p => by cases p <;> exact ⟨by decide, by decide⟩

theorem test_meets_StepKeepsClaimLists : ListsOk waiting := waitingOk

theorem test_meets_StepKeepsClaimLists_eligible : EligibleOk waiting := by
  refine ⟨fun h => by simp [Resting, waiting, st, State.mode] at h, fun h => absurd h (by decide), fun c x hx => ?_⟩
  rcases c with y | _ | _ | k | n
  · cases y <;> cases hx
  · cases hx
  · cases hx
  · cases k <;> cases hx
  · cases n
    · rcases List.mem_cons.1 hx with rfl | hx
      · exact ⟨by decide +kernel, fun k h => by cases h⟩
      · obtain rfl := List.mem_singleton.1 hx
        exact ⟨by decide +kernel, fun k h => by cases h⟩
    all_goals cases hx

theorem test_meets_StepKeepsBrakeSetpoints : BrakesOk waiting :=
  ⟨rfl, by decide, fun x y h => by cases x <;> cases h⟩

/-- `st .run` with S_DOOR_HALT holding BRK_B at H and S_LANE holding STR_C, while the doors are UNSECURED. -/
def held : State :=
  let brake : ClaimList := ⟨[⟨.doorHalt, 10, .num 250, 1, .absent, true⟩], 1⟩
  let steer : ClaimList := ⟨[⟨.lane, 4, .num (-120), 1, .absent, true⟩], 1⟩
  { st .run with cau := ((st .run).cau.set (.brk .b) brake).set .str steer }

theorem test_meets_StepKeepsBrakeSetpoints_floor :
    FloorOk held ∧ held.bau.floor = true ∧ held.inFlight = [] ∧ held.store.doorFitted .d1 = true ∧
      held.dsv.unsecured.get .d1 = true ∧ held.effective (.brk .b) = .num 250 := by
  refine ⟨⟨rfl, fun h => by simp [Resting, held, st, State.mode] at h, by decide, by decide,
    ⟨rfl, rfl, fun n _ => by cases n <;> rfl, fun _ => rfl⟩, fun axle hx x h => ?_⟩, rfl, rfl, by decide, rfl, rfl⟩
  cases axle
  · exact absurd rfl hx
  · obtain rfl := List.mem_singleton.1 h
    exact ⟨fun _ => ⟨by decide, by decide⟩, fun _ => ⟨by decide, by decide⟩⟩
  · cases h

theorem test_meets_StepKeepsSteerSent_claims :
    SteerJointOk held ∧ held.effective .str = .num (-120) ∧ held.store.get 28 = 120 := by
  refine ⟨⟨rfl, fun h => by simp [Resting, held, st, State.mode] at h, by decide, by decide, fun x h => ?_,
    fun x h => ?_⟩, rfl, rfl⟩
  · obtain rfl := List.mem_singleton.1 h
    exact ⟨by decide, by decide⟩
  · cases h

theorem test_meets_StepKeepsReleaseOutputs : OutputsOk waiting := fun _ n => by cases n <;> rfl

theorem test_meets_StepKeepsVote : VoteOk { waiting with lv := bothFresh } := fun x _ => by cases x <;> decide

theorem test_meets_StepKeepsFatalOut : FatalOk waiting := fun _ k h => by cases k <;> cases h

theorem test_meets_StepKeepsSteerSent : SentOk waiting := ⟨rfl, by decide, by decide, by decide⟩

theorem test_meets_StepKeepsLoads : LoadsOk waiting := ⟨rfl, fun x => by cases x <;> decide⟩

end Sys2Proof.Tests
end

section

/-! PROOFS. Faults and the capture record (10_faults_and_the_capture_record.md). -/

namespace Sys2Proof.Machine

open Sys2Proof.Safety

/-! What passes the tests of R188 -/

/-- A request that passes the tests of R188 before the owning block's is handed to that block. -/
theorem request_of_passes {p : Port} {r : Byte} {ports : Port → Bool} {s : State} (h : Passes p r ports s) (k : Byte)
    (owner : State → State × Option Reply) :
    request p r k ports owner s = owned p k (owner (closeTransfer p s)) := by
  obtain ⟨taken, awake, reserved, permitted⟩ := h
  exact request_owned s p r k ports owner taken awake reserved permitted

/-! FU after ACK_CAPTURE (R169) -/

@[simp] theorem fuAcked_capture (f : Fu) : (fuAcked f).capture = none := rfl

/-- An ACK_CAPTURE that FU takes empties the record in the state the transfer leaves, and answers OK. -/
theorem exec_ackCapture_of_passes {p : Port} {r : Byte} {s : State} (h : Passes p r lanePorts s) :
    exec (.ackCapture p r) s =
      .next (answer p 0x16 ⟨.ok, []⟩ { closeTransfer p s with fu := fuAcked s.fu }) := by
  change goes (request p r 0x16 lanePorts _ s) = _
  rw [request_of_passes h, closeTransfer_fu]
  rfl

/-! The judgement of a detection against the record (R163, R164) -/

/-- Exactly the kinds of severity CORRECTABLE stand in the CORRECTABLE class (R157). -/
theorem isCorrectable_eq_false_iff {st : Store} {k : FaultKind} :
    isCorrectable st k = false ↔ st.severity k ≠ .correctable := by
  simp [isCorrectable]

/-- With the record empty, a detection is captured exactly when its kind is DEGRADE or FATAL. -/
theorem captures_iff_of_empty {st : Store} {f : Fu} {k : FaultKind} (h : f.capture = none) :
    captures st f k = true ↔ st.severity k ≠ .correctable := by
  simp [captures, h, isCorrectable_eq_false_iff]

/-- No detection finds an empty record full. -/
theorem findsFull_of_empty {st : Store} {f : Fu} {k : FaultKind} (h : f.capture = none) :
    findsFull st f k = false := by
  simp [findsFull, h]

/-- No detection is promoted while the record is empty: promotion wants it full. -/
theorem promoted_of_empty {st : Store} {f : Fu} {m : Mode} {k : FaultKind} (h : f.capture = none) :
    promoted st f m k = false := by
  simp [promoted, findsFull_of_empty h]

/-- Settles O31: the request goes through the one rule for requests that pass R188, and both halves of the next
detection's judgement follow from the record being empty. -/
theorem captureAcknowledged : Obligations.CaptureAcknowledged := by
  unfold Obligations.CaptureAcknowledged
  refine ⟨fun p r s passes => ?acknowledged, fun st f m k serious => ⟨?captured, ?notPromoted⟩⟩
  case acknowledged => exact exec_ackCapture_of_passes passes
  case captured => exact (captures_iff_of_empty (fuAcked_capture f)).2 serious
  case notPromoted => exact promoted_of_empty (fuAcked_capture f)

end Sys2Proof.Machine
end

section

/-! PROOFS. Master ports and notices (12_master_ports_and_notices.md). -/

namespace Sys2Proof.Machine

open Sys2Proof.Safety

/-! The table of requests (R189) -/

/-- The codes of the requests that every port takes (R189). -/
def everyPortCodes : List Nat := [0x00, 0x01, 0x02, 0x03]

/-- The codes of the requests of Ports A and B (R189). -/
def lanePortCodes : List Nat := [0x10, 0x11, 0x12, 0x13, 0x14, 0x15, 0x16, 0x17, 0x18, 0x19, 0x1A, 0x1B]

/-- The codes of the requests of Port D (R189). -/
def doorPortCodes : List Nat := [0x20, 0x21, 0x22, 0x23, 0x24, 0x25, 0x26]

/-- Whether a code stands in a row of the table that lists the port (R189). -/
def codePermitted (code : Nat) (q : Port) : Bool :=
  everyPortCodes.contains code || lanePortCodes.contains code && lanePorts q ||
    doorPortCodes.contains code && doorPort q

theorem codePermitted_iff {code : Nat} {q : Port} :
    codePermitted code q = true ↔
      code ∈ everyPortCodes ∨ code ∈ lanePortCodes ∧ q ≠ .d ∨ code ∈ doorPortCodes ∧ q = .d := by
  simp [codePermitted, lanePorts, doorPort, or_assoc]

/-- The codes of the three groups of ports are all the request codes. -/
theorem requestCodes_eq : requestCodes = everyPortCodes ++ lanePortCodes ++ doorPortCodes := rfl

/-- A byte names a request exactly when its number is one of the request codes. -/
theorem kindNames_eq (k : Byte) : kindNames k = requestCodes.contains k.toNat := by
  simp [kindNames, requestCodes, BitVec.toNat_eq]

theorem kindNames_iff {k : Byte} :
    kindNames k = true ↔ k.toNat ∈ everyPortCodes ++ lanePortCodes ++ doorPortCodes := by
  rw [kindNames_eq, requestCodes_eq, List.contains_iff_mem]

section Requests

variable {c : Instr} {p : Port} {r k : Byte} {ports : Port → Bool} {s : State}

/-- Every request's kind byte names one, and its ports are those of its row of the table. -/
theorem requestOf_row (h : requestOf c = some (p, r, k, ports)) :
    kindNames k = true ∧ ports = codePermitted k.toNat := by
  cases c <;> cases h <;> exact ⟨rfl, funext fun q => by cases q <;> rfl⟩

/-- A frame whose kind byte names a request is decoded to a request of that kind, with the frame's reserved byte. -/
theorem requestOf_decodeRequest (p : Port) (f : List Byte) (h : kindNames (frameByte f 0) = true) :
    ∃ ports, requestOf (decodeRequest p f) = some (p, frameByte f 10, frameByte f 0, ports) := by
  dsimp only [decodeRequest]
  generalize frameByte f 0 = k at h ⊢
  simp only [kindNames, List.contains_iff_mem] at h
  fin_cases h <;> exact ⟨_, rfl⟩

/-- The kind bytes that name a request are those that some request has. -/
theorem kindNames_iff_exists_request :
    kindNames k = true ↔ ∃ c p r ports, requestOf c = some (p, r, k, ports) := by
  constructor
  · intro h
    obtain ⟨ports, hc⟩ := requestOf_decodeRequest .a [k] h
    exact ⟨_, _, _, ports, hc⟩
  · rintro ⟨c, p, r, ports, h⟩
    obtain ⟨named, _⟩ := requestOf_row h
    exact named

/-! The tests of R188 that stand before the owning block's -/

/-- Every request is judged by the one rule of R188; only the owning block's part is its own. -/
theorem exec_request (h : requestOf c = some (p, r, k, ports)) :
    ∃ owner, ∀ s, exec c s = .next (request p r k ports owner s) := by
  cases c <;> cases h <;> exact ⟨_, fun _ => rfl⟩

/-- Test 1 of R188: in POWERUP every request is refused, whatever its bytes. -/
theorem request_powerup (owner : State → State × Option Reply) (taken : isAbandoned p s = false)
    (asleep : s.mode = .powerup) :
    request p r k ports owner s = answer p k ⟨.refusedState, []⟩ (closeTransfer p s) := by
  simp [request, taken, asleep]

/-- Test 3 of R188: the reserved byte is judged before the port. -/
theorem request_reserved (owner : State → State × Option Reply) (taken : isAbandoned p s = false)
    (awake : s.mode ≠ .powerup) (reserved : r ≠ 0) :
    request p r k ports owner s = answer p k ⟨.refusedArg, []⟩ (closeTransfer p s) := by
  rw [request, taken, if_neg Bool.false_ne_true, if_neg awake, if_pos reserved]

/-- Test 4 of R188: the last one before the owning block's. -/
theorem request_port (owner : State → State × Option Reply) (taken : isAbandoned p s = false)
    (awake : s.mode ≠ .powerup) (reserved : r = 0) (barred : ports p = false) :
    request p r k ports owner s = answer p k ⟨.refusedPort, []⟩ (closeTransfer p s) := by
  simp [request, taken, awake, reserved, barred]

/-- Test 2 of R188: a kind byte that names no request is judged after the mode. -/
theorem exec_unknownKindFrame (unnamed : kindNames k = false) (taken : isAbandoned p s = false) :
    exec (.unknownKindFrame p k) s =
      .next (answer p k ⟨if s.mode = .powerup then .refusedState else .unknownKind, []⟩ (closeTransfer p s)) := by
  rw [kindNames_eq] at unnamed
  change execUnknownKindFrame p k s = _
  unfold execUnknownKindFrame
  by_cases asleep : s.mode = .powerup <;> simp only [unnamed, taken, asleep, goes, reduceIte, Bool.false_eq_true]

end Requests

/-! The answer to a request -/

/-- An answer reaches MPI alone. -/
theorem answer_closeTransfer_sameButPorts (p : Port) (k : Byte) (rep : Reply) (s : State) :
    SameButPorts s (answer p k rep (closeTransfer p s)) := rfl

/-- An answer to a closed transfer reaches the previous-frame result and the transfer of its own port alone. -/
theorem answer_closeTransfer_port (p : Port) (k : Byte) (rep : Reply) (s : State) (q : Port) :
    (answer p k rep (closeTransfer p s)).mpi.get q =
      if q = p then { s.mpi.get p with answer := ⟨k, rep.result, pad8 rep.data⟩, transfer := .idle }
      else s.mpi.get q := by
  by_cases h : q = p <;> simp [answer, closeTransfer, h]

/-- Settles O4: every request goes through the one judgement of R188, which refuses at each test before the owner's, and
the table of requests is read row by row. -/
theorem requestsJudgedInOrder : Obligations.RequestsJudgedInOrder := by
  unfold Obligations.RequestsJudgedInOrder
  refine ⟨fun c p r k ports s named taken => ?judged, fun p k s unnamed taken => exec_unknownKindFrame unnamed taken,
    fun p k res d s => ⟨answer_closeTransfer_sameButPorts p k _ s, ?own, fun q other => ?others⟩, rfl,
    fun k => ⟨?codes, kindNames_iff_exists_request, fun c p r ports named q => ?permitted⟩⟩
  case judged =>
    obtain ⟨owner, judged⟩ := exec_request named
    rw [judged]
    exact ⟨fun asleep => congrArg _ (request_powerup owner taken asleep),
      fun awake reserved => congrArg _ (request_reserved owner taken awake reserved),
      fun awake reserved barred => congrArg _ (request_port owner taken awake reserved barred)⟩
  case own => exact (answer_closeTransfer_port p k _ s p).trans (if_pos rfl)
  case others => exact (answer_closeTransfer_port p k _ s q).trans (if_neg other)
  case codes => exact kindNames_iff
  case permitted =>
    obtain ⟨_, row⟩ := requestOf_row named
    rw [row]
    exact codePermitted_iff

/-! A notice offered to a port (R192) -/

theorem kindQueued_iff {no : Nat} {q : List Notice} : kindQueued no q = true ↔ ∃ m ∈ q, m.kindNo = no := by
  simp [kindQueued]

/-- A notice whose kind is queued merges into the queued one, which keeps its place. -/
theorem offerPort_of_queued {n : Notice} {p : PortState} (h : ∃ m ∈ p.queue, m.kindNo = n.kindNo) :
    offerPort n p = { p with queue := p.queue.map fun m => if m.kindNo = n.kindNo then m.merge n else m } := by
  simp [offerPort, kindQueued_iff.2 h, mergeInto]

/-- A notice whose kind is not queued joins the tail, or is dropped at a full queue. -/
theorem offerPort_of_not_queued {n : Notice} {p : PortState} (h : ∀ m ∈ p.queue, m.kindNo ≠ n.kindNo) :
    offerPort n p =
      if p.queue.length < 8 then { p with queue := p.queue ++ [n] } else { p with lost := true } := by
  have absent : ¬ kindQueued n.kindNo p.queue = true := by
    intro queued
    obtain ⟨m, hm, same⟩ := kindQueued_iff.1 queued
    exact h m hm same
  unfold offerPort
  rw [if_neg absent]

/-- A kind that carries no set of channels or of fault kinds takes the new notice whole. -/
theorem merge_of_no_set {old new : Notice} (h1 : new.kindNo ≠ 1) (h3 : new.kindNo ≠ 3) (h4 : new.kindNo ≠ 4)
    (h5 : new.kindNo ≠ 5) : old.merge new = new := by
  unfold Notice.merge
  split
  · exact absurd rfl h1
  · exact absurd rfl h3
  · exact absurd rfl h4
  · exact absurd rfl h5
  · rfl

/-- The removal that empties the queue clears the lost flag. -/
theorem popNotice_lost_of_empty {p : PortState} (h : (popNotice p).queue = []) : (popNotice p).lost = false := by
  have emptied : p.queue.tail = [] := h
  simp [popNotice, emptied]

/-- A notice is offered to each port of its routing set, and to no other (R191). -/
theorem offer_port (n : Notice) (s : State) (p : Port) :
    (offer n s).mpi.get p = if s.store.routed n.kindNo p then offerPort n (s.mpi.get p) else s.mpi.get p :=
  PerPort_get_of _ p

/-- Settles O8: the three cases of an offer, the merge kind by kind, the removal, and the ports an offer reaches. -/
theorem noticeOffered : Obligations.NoticeOffered := by
  unfold Obligations.NoticeOffered
  refine ⟨fun n p => ⟨offerPort_of_queued, offerPort_of_not_queued, queueOk_offerPort n p⟩, ?faults, ?claims, ?whole,
    fun p => popNotice_lost_of_empty, fun n s => ⟨?frame, offer_port n s⟩⟩
  case faults => exact fun ks ks' src src' sv sv' m m' => rfl
  case claims => exact fun cs cs' src src' => ⟨rfl, rfl, rfl⟩
  case whole => exact fun old new _ h1 h3 h4 h5 => merge_of_no_set h1 h3 h4 h5
  case frame => exact (rfl : SameButPorts s (offer n s))

end Sys2Proof.Machine
end

section

/-! PROOFS. The claim lists, the brake setpoints with the halt floor, and the STR_C and JNT claims, kept by every step. -/

namespace Sys2Proof.Machine

open Sys2Proof.Safety

/-! Laws of the claims -/

/-- The state right after a taken write, before its block acts on it (R180, R2). -/
def storeTaken (st : Store) (s : State) : State :=
  announce (restEvents s st) { s with mc := { s.mc with store := st, ready := ⟨none, none⟩ } }

theorem takeWrite_eq (n : Nat) (st : Store) (s : State) : takeWrite n st s = blockActs n s.store (storeTaken st s) := rfl

/-- The block of a taken write acts by moves, or forms the doors anew (R180, R129). -/
theorem takeWrite_cases (n : Nat) (st : Store) (s : State) :
    Moves (storeTaken st s) (takeWrite n st s) ∨ takeWrite n st s = dsvFitting (storeTaken st s) := by
  rw [takeWrite_eq]
  by_cases h : n = 48
  · subst h
    rcases blockActs_doors (storeTaken st s) s.store with e | e
    · exact .inl (by rw [e]; exact .refl _)
    · exact .inr e
  · exact .inl (blockActs_moves _ n s.store h)

/-- The state after a warm reset but for the first poll of its link (R184, R42). -/
def warmStart (cause : Cause) (s : State) : State :=
  { s with
    inFlight := []
    mpi := mpiReset s.mpi
    lv := lvReset
    cau := cauReset
    ict := ictReset s.store
    bau := bauReset s.store
    sju := sjuReset s.store s.sju.lastSent s.sju.centring.follow
    lku := lkuReset
    dsv := dsvReset s.store
    mru := mruReset
    flc := linkStarted s.store (flcReset (testAfterWarm s.flc.test))
    mc := mcReset .config s.store s.mc.locked s.mode cause }

theorem warmReset_eq (cause : Cause) (s : State) : warmReset cause s = pollNext (warmStart cause s) := rfl

@[simp] theorem cauReset_get (c : Channel) : cauReset.get c = ⟨[], 0⟩ := PerChannel_get_of _ c

/-- What forming the doors leaves of CAU and MC. -/
theorem formDoors_locked (d : Dsv) (s : State) : (formDoors d s).mc = s.mc := by
  unfold formDoors; split <;> rfl

theorem dsvFitting_fields (s : State) : (dsvFitting s).store = s.store ∧ (dsvFitting s).mode = s.mode ∧
    (dsvFitting s).cau = s.cau := by
  obtain ⟨store, mode, cau, -⟩ := formDoors_fields s
    { s.dsv with reports := .of fun n => if s.store.doorFitted n then s.dsv.reports.get n else .unknown }
  exact ⟨store, mode, cau⟩

/-- BAU's taking of an announcement changes its inputs alone, or recomputes from others with the same given values. -/
theorem bauTold_cases (e : Ev) (s : State) :
    (∃ b, bauTold e s = { s with bau := b }) ∨ ∃ b, b.given = s.bau.given ∧ bauTold e s = bauRecompute { s with bau := b } := by
  have floor : ∀ d k, (∃ b, bauFloor d k s = { s with bau := b }) ∨
      ∃ b, b.given = s.bau.given ∧ bauFloor d k s = bauRecompute { s with bau := b } := by
    intro d k
    unfold bauFloor; split
    · exact .inl ⟨{ s.bau with doors := d, kneel := k }, rfl⟩
    · exact .inr ⟨{ s.bau with doors := d, kneel := k, floor := floorStands s.store d k }, rfl, rfl⟩
  cases e with
  | doors d => exact floor d s.bau.kneel
  | kneel k => exact floor s.bau.doors k
  | _ => exact .inl ⟨s.bau, rfl⟩

/-- A law of the store, its lock and the claim lists: it hangs on the mode only by whether that is POWERUP, CONFIG or
SERVICE. -/
structure ClaimLaw (P : State → Prop) : Prop where
  same : ∀ s t, t.store = s.store → (Resting t → Resting s) → t.mc.locked = s.mc.locked → t.cau = s.cau → P s → P t
  moves : ∀ s t, Moves s t → P s → P t
  recompute : ∀ b s, b.given = s.bau.given → P s → P (bauRecompute { s with bau := b })
  write : ∀ n v0 v1 v2 st s, s.mode = .config → s.mc.locked = false → s.store.write n v0 v1 v2 = some st → P s →
    P (storeTaken st s)
  locks : ∀ s, validation s = none → P s → P { s with mc := { s.mc with ready := ⟨none, none⟩, locked := true } }
  cleared : ∀ s t, t.store = s.store → t.mc.locked = s.mc.locked → t.cau = cauReset → P s → P t
  reset : P State.reset
  ticked : ∀ s, P s → P (tickTimers s)

/-- A law of the claim lists is a law of the steps. -/
theorem ClaimLaw.law {P : State → Prop} (L : ClaimLaw P) : Law P where
  moves := L.moves
  told := fun e rest t _ h => by
    have hr : P { t with inFlight := rest } := L.same t _ rfl id rfl rfl h
    generalize { t with inFlight := rest } = u at hr
    rcases bauTold_cases e u with ⟨b, hb⟩ | ⟨b, hg, hb⟩ <;> rw [hb]
    · exact L.same u _ rfl id rfl rfl hr
    · exact L.recompute b u hg hr
  doors := fun d s h => by
    obtain ⟨store, mode, cau, -⟩ := formDoors_fields s d
    exact L.same s _ store (fun hr => by unfold Resting at hr ⊢; rwa [mode] at hr) (by rw [formDoors_locked]) cau h
  mode := fun m s hm hp h => L.same s _ rfl (fun hr => hm (by rcases hr with e | e | e; exacts [absurd e hp, .inl e, .inr e]))
    rfl rfl h
  enter := fun s hs h => L.same s _ rfl (fun _ => .inl hs) rfl rfl h
  write := fun n v0 v1 v2 st s hm hl hw h => by
    have hp := L.write n v0 v1 v2 st s hm hl hw h
    rcases takeWrite_cases n st s with hmv | e
    · exact L.moves _ _ hmv hp
    · rw [e]
      generalize storeTaken st s = u at hp
      obtain ⟨store, mode, cau⟩ := dsvFitting_fields u
      exact L.same u _ store (fun hr => by unfold Resting at hr ⊢; rwa [mode] at hr) (by rw [dsvFitting, formDoors_locked])
        cau hp
  locks := L.locks
  warm := fun c s h => by
    rw [warmReset_eq]
    exact L.moves _ _ (pollNext_moves _) (L.cleared s _ rfl rfl rfl h)
  power := fun s h => L.same State.reset _ rfl (fun _ => .inl rfl) rfl rfl L.reset
  ticked := L.ticked

/-! The lists in order (R9, R10, R16) -/

theorem listsOk_of_cau {s t : State} (h : ListsOk s) (hc : t.cau = s.cau) : ListsOk t := fun c => hc ▸ h c

/-- A list that an operation puts in keeps the law where it keeps that list in order. -/
theorem listsOk_set {s t : State} {d : Channel} {cl : ClaimList} (h : ListsOk s) (hc : t.cau = s.cau.set d cl)
    (hl : ListOk cl) : ListsOk t := by
  intro c
  rw [hc, PerChannel_get_set]
  split
  · exact hl
  · exact h c

theorem listsOk_bauRecompute (s : State) (h : ListsOk s) : ListsOk (bauRecompute s) := by
  intro c
  rw [cau_bauRecompute]
  cases c with
  | brk x => exact listOk_rewriteList _ _ (h _)
  | _ => exact h _

/-- Every move keeps the lists in order. -/
theorem Moves.listsOk {s t : State} (h : Moves s t) : ListsOk s → ListsOk t := by
  induction h with
  | refl s => exact id
  | trans _ _ h1 h2 => exact h2 ∘ h1
  | aside h => exact fun hs => listsOk_of_cau hs h.cau
  | place src c s =>
    intro hs
    cases ha : accepts s src c with
    | false => rwa [placeClaim_dropped s src c ha]
    | true =>
      intro d
      by_cases hd : d = c
      · subst hd
        rw [placeClaim_cau s src d ha]
        exact listOk_placeList _ _ _ _ (hs d)
      · rw [placeClaim_cau_of_ne s src c d hd]; exact hs d
  | withdraw src c s => exact fun hs => listsOk_set hs rfl (listOk_withdrawList src _ (hs c))
  | steer j s => exact fun hs => listsOk_set (d := .str) hs rfl (listOk_rewriteList _ _ (hs .str))
  | level h k s => exact fun hs => listsOk_set (d := .lvl k) hs rfl (listOk_rewriteList _ _ (hs (.lvl k)))
  | brake b s => exact fun hs => listsOk_bauRecompute _ hs
  | detected k src ch item s => exact fun hs => listsOk_of_cau hs (cau_detect s k src ch item)
  | kneeled k s => exact id
  | cleared s => exact fun _ c => by rw [clearLists_cau, cauReset_get]; exact ⟨.nil, .nil, by simp, trivial⟩

theorem listsOk_empty {s : State} (h : s.cau = cauReset) : ListsOk s :=
  fun c => by rw [h, cauReset_get]; exact ⟨.nil, .nil, by simp, trivial⟩

theorem listsOk_claimLaw : ClaimLaw ListsOk where
  same := fun _ _ _ _ _ hc h => listsOk_of_cau h hc
  moves := fun _ _ hm => hm.listsOk
  recompute := fun _ _ _ h => listsOk_bauRecompute _ h
  write := fun _ _ _ _ _ _ _ _ _ h => h
  locks := fun _ _ h => h
  cleared := fun _ _ _ _ hc _ => listsOk_empty hc
  reset := listsOk_empty rfl
  ticked := fun s h c => by
    change ListOk ((PerChannel.of fun c => tickList (s.cau.get c)).get c)
    rw [PerChannel_get_of]; exact listOk_tickList _ (h c)

/-! The sources in the lists (R4, R6, R11, R147) -/

/-- Every record of `t` has a source that had one on its channel in `s`. -/
def SourcesFrom (s t : State) : Prop :=
  ∀ c, ∀ y ∈ (t.cau.get c).claims, ∃ x ∈ (s.cau.get c).claims, x.source = y.source

theorem sourcesFrom_of_cau {s t : State} (h : t.cau = s.cau) : SourcesFrom s t := fun _ y hy => ⟨y, h ▸ hy, rfl⟩

theorem sourcesFrom_bauRecompute (b : Bau) (s : State) : SourcesFrom s (bauRecompute { s with bau := b }) := by
  intro c y hy
  rw [cau_bauRecompute] at hy
  cases c with
  | brk x =>
    obtain ⟨z, hz, e⟩ := asks_rewriteList _ _ _ hy
    exact ⟨z, hz, (congrArg Prod.fst e).symm⟩
  | _ => exact ⟨y, hy, rfl⟩

/-- A change that creates no record and moves neither the store nor its lock. -/
theorem eligibleOk_of_sourcesFrom {s t : State} (hs : t.store = s.store) (hr : Resting t → Resting s)
    (hl : t.mc.locked = s.mc.locked) (hf : SourcesFrom s t) (h : EligibleOk s) : EligibleOk t := by
  obtain ⟨rest, count, records⟩ := h
  refine ⟨fun ht c => ?rest, by rw [hl, hs]; exact count, fun c y hy => ?records⟩
  case rest =>
    refine List.eq_nil_iff_forall_not_mem.2 fun y hy => ?_
    obtain ⟨x, hx, -⟩ := hf c y hy
    rw [rest (hr ht) c] at hx; cases hx
  case records =>
    obtain ⟨x, hx, e⟩ := hf c y hy
    rw [hs, hl, ← e]
    exact records c x hx

/-- Every move keeps the sources eligible: a new record is one of a placement that CAU accepted (R11). -/
theorem Moves.eligibleOk {s t : State} (h : Moves s t) (hs : EligibleOk s) : EligibleOk t := by
  obtain ⟨rest, count, records⟩ := hs
  obtain ⟨store, resting⟩ := h.resting
  refine ⟨fun ht c => ?rest, by rw [h.locked, store]; exact count, fun c y hy => ?records⟩
  case rest =>
    refine List.eq_nil_iff_forall_not_mem.2 fun y hy => ?_
    rcases h.sources c y hy with ⟨x, hx, -⟩ | ⟨-, -, hn⟩
    · rw [rest (resting ht) c] at hx; cases hx
    · exact hn ht
  case records =>
    rw [store, h.locked]
    rcases h.sources c y hy with ⟨x, hx, e⟩ | ⟨he, hl, -⟩
    · rw [← e]; exact records c x hx
    · exact ⟨he, hl⟩

/-- A validation that passes leaves each channel at most 8 eligible sources (R183, R6). -/
theorem eligibleCount_of_validation {s : State} (h : validation s = none) (c : Channel) : eligibleCount s.store c ≤ 8 := by
  have mem : c ∈ Channel.all := by
    rcases c with x | _ | _ | k | n
    · cases x <;> decide
    · decide
    · decide
    · cases k <;> decide
    · cases n <;> decide
  have none_over : overfull s = none := by
    unfold validation at h
    split at h
    case h_4 none_over _ => exact none_over
    case h_5 none_over _ => exact none_over
    all_goals cases h
  simpa using List.find?_eq_none.1 none_over c mem

theorem eligibleOk_claimLaw : ClaimLaw EligibleOk where
  same := fun _ _ hs hr hl hc h => eligibleOk_of_sourcesFrom hs hr hl (sourcesFrom_of_cau hc) h
  moves := fun _ _ hm => hm.eligibleOk
  recompute := fun b s _ h => eligibleOk_of_sourcesFrom (store_bauRecompute _) (resting_bauRecompute _)
    (bauRecompute_mild _).same.locked (sourcesFrom_bauRecompute b s) h
  write := fun n v0 v1 v2 st s hm hl _ h => by
    obtain ⟨rest, -, -⟩ := h
    refine ⟨rest, fun ht => ?_, fun c y hy => ?_⟩
    · exact absurd (hl.symm.trans ht) Bool.false_ne_true
    · have empty : (s.cau.get c).claims = [] := rest (.inr (.inl hm)) c
      have hy : y ∈ (s.cau.get c).claims := hy
      rw [empty] at hy; cases hy
  locks := fun s hv h => by
    obtain ⟨rest, -, records⟩ := h
    exact ⟨rest, fun _ c => eligibleCount_of_validation hv c, fun c y hy => ⟨(records c y hy).1, fun _ _ => rfl⟩⟩
  cleared := fun s t hs hl hc h => by
    obtain ⟨-, count, -⟩ := h
    refine ⟨fun _ c => by rw [hc, cauReset_get], by rw [hl, hs]; exact count, fun c y hy => ?_⟩
    rw [hc, cauReset_get] at hy; cases hy
  reset := ⟨fun _ c => by change (cauReset.get c).claims = []; rw [cauReset_get], fun h => absurd h Bool.false_ne_true,
    fun c y hy => by change y ∈ (cauReset.get c).claims at hy; rw [cauReset_get] at hy; cases hy⟩
  ticked := fun s h => by
    refine eligibleOk_of_sourcesFrom (s := s) rfl id rfl (fun c y hy => ?_) h
    change y ∈ ((PerChannel.of fun c => tickList (s.cau.get c)).get c).claims at hy
    rw [PerChannel_get_of] at hy
    obtain ⟨x, hx, rfl⟩ := List.mem_map.1 hy
    exact ⟨x, hx, rfl⟩

/-- Every source is listed (R4). -/
theorem mem_allSources (src : Source) : src ∈ allSources := by
  rcases src with _ | _ | _ | e | _ | _ | n | _ | _
  case entry =>
    rcases e with f | k
    · cases f <;> decide
    · revert k; decide
  case doorOpen => cases n <;> decide
  all_goals decide

/-- A list of distinct sources, each eligible, is no longer than the count of eligible sources (R10). -/
theorem length_le_eligibleCount {st : Store} {c : Channel} {l : List Claim} (distinct : (l.map Claim.source).Nodup)
    (admitted : ∀ x ∈ l, eligible st x.source c = true) : l.length ≤ eligibleCount st c := by
  have sub : l.map Claim.source ⊆ allSources.filter fun src => eligible st src c := by
    intro src hs
    obtain ⟨x, hx, rfl⟩ := List.mem_map.1 hs
    exact List.mem_filter.2 ⟨mem_allSources _, admitted x hx⟩
  simpa [eligibleCount] using (List.subperm_of_subset distinct sub).length_le

/-- The sources that are no programmable entry and that some store admits on a channel: the table of R4 and R145. -/
def fixedOn : Channel → List Source
  | .brk _ => [.safe, .emerg, .entry (.fixed .f0), .entry (.fixed .f2), .doorHalt, .lane]
  | .str => [.safe, .centre, .lane]
  | .jnt => [.safe, .joint]
  | .lvl _ => [.safe, .entry (.fixed .f3), .doorKneel, .lane]
  | .drel n => [.safe, .entry (.fixed .f1), .doorOpen n]

theorem mem_fixedOn {st : Store} {src : Source} {c : Channel} (h : eligible st src c = true)
    (hk : ∀ k, src ≠ .entry (.prog k)) : src ∈ fixedOn c := by
  rcases src with _ | _ | _ | e | _ | _ | n | _ | _
  case entry =>
    rcases e with f | k
    · cases f <;> rcases c with x | _ | _ | y | m <;>
        simp_all [eligible, entryFields, fixedFields, fixedOn]
    · exact absurd rfl (hk k)
  all_goals rcases c with x | _ | _ | y | m <;> simp_all [eligible, fixedOn]

/-- An unlocked store lets no programmable entry claim, and the rest are 6 sources on a channel at most (R4, R145). -/
theorem length_le_of_fixed {st : Store} {c : Channel} {l : List Claim} (distinct : (l.map Claim.source).Nodup)
    (admitted : ∀ x ∈ l, eligible st x.source c = true) (fixed : ∀ x ∈ l, ∀ k, x.source ≠ .entry (.prog k)) :
    l.length ≤ 6 := by
  have sub : l.map Claim.source ⊆ fixedOn c := by
    intro src hs
    obtain ⟨x, hx, rfl⟩ := List.mem_map.1 hs
    exact mem_fixedOn (admitted x hx) (fixed x hx)
  have bound := (List.subperm_of_subset distinct sub).length_le
  have short : (fixedOn c).length ≤ 6 := by cases c <;> simp [fixedOn]
  simp only [List.length_map] at bound
  omega

/-- In a state that keeps both laws no list holds more than 8 records (R10). -/
theorem claims_length_le {s : State} (lists : ListsOk s) (sources : EligibleOk s) (c : Channel) :
    (s.cau.get c).claims.length ≤ 8 := by
  obtain ⟨-, distinct, -, -⟩ := lists c
  obtain ⟨-, count, records⟩ := sources
  have admitted : ∀ x ∈ (s.cau.get c).claims, eligible s.store x.source c = true := fun x hx => (records c x hx).1
  cases locked : s.mc.locked with
  | true => exact (length_le_eligibleCount distinct admitted).trans (count locked c)
  | false =>
    have fixed : ∀ x ∈ (s.cau.get c).claims, ∀ k, x.source ≠ .entry (.prog k) := fun x hx k hk =>
      Bool.false_ne_true (locked.symm.trans ((records c x hx).2 k hk))
    exact (length_le_of_fixed distinct admitted fixed).trans (by omega)

/-- Settles O53: both laws are laws of the claim lists, which every step keeps; and the bound on a list's length is a count of the
distinct sources that its channel admits. -/
theorem stepKeepsClaimLists : Obligations.StepKeepsClaimLists :=
  ⟨listsOk_claimLaw.law.kept, eligibleOk_claimLaw.law.kept, fun _ lists sources => claims_length_le lists sources⟩

end Sys2Proof.Machine
end

section

/-! PROOFS. The brake setpoints with the halt floor, and the STR_C and JNT claims, kept by every step. -/

namespace Sys2Proof.Machine

open Sys2Proof.Safety

/-! Brake claims (R82) -/

/-- The rest value H between 0 and 600 (R1). -/
def HaltInRange (st : Store) : Prop := 0 ≤ st.haltP ∧ st.haltP ≤ 600

/-- Whatever is handed over for a brake channel is stored within 0 to 850 (R1, R82). -/
theorem inBrakeDomain_toDomain {st : Store} (h : HaltInRange st) (x : Axle) (sp : Setpoint) :
    InBrakeDomain (st.toDomain (.brk x) sp) := by
  obtain ⟨low, high⟩ := h
  cases sp with
  | num n => exact clamp_between 0 850 n (by norm_num)
  | _ => exact ⟨low, high.trans (by norm_num)⟩

theorem inBrakeDomain_of_asks {x y : Claim} (e : x.asks = y.asks) (h : InBrakeDomain x.setpoint) :
    InBrakeDomain y.setpoint := by
  have : x.setpoint = y.setpoint := congrArg Prod.snd e
  rwa [← this]

/-- A change that leaves each brake claim as one that stood, a placed one or a rewritten one. -/
theorem brakesOk_of_recorded {s t : State} (hs : t.store = s.store) (hrec : ∀ x, Recorded s t (.brk x))
    (h : BrakesOk s) : BrakesOk t := by
  obtain ⟨wf, halt, claims⟩ := h
  have inDomain : ∀ axle sp, InBrakeDomain (s.store.toDomain (.brk axle) sp) := fun axle sp =>
    inBrakeDomain_toDomain halt axle sp
  refine ⟨by unfold StoreOk; rw [hs]; exact wf, by rw [hs]; exact halt, fun axle y hy => ?_⟩
  rcases hrec axle y hy with ⟨src, -, e⟩ | ⟨x, hx, e | ⟨sp, e⟩⟩
  · rw [show y.setpoint = _ from congrArg Prod.snd e]; exact inDomain axle _
  · exact inBrakeDomain_of_asks e (claims axle x hx)
  · rw [show y.setpoint = _ from congrArg Prod.snd e]; exact inDomain axle sp

theorem recorded_withdraw (src : Source) (c d : Channel) (s : State) : Recorded s (withdrawClaim src c s) d := by
  intro y hy
  rw [withdrawClaim_frame] at hy
  by_cases hd : d = c
  · subst hd
    obtain ⟨x, hx, e⟩ := asks_withdrawList src _ _ (by simpa using hy)
    exact .inr ⟨x, hx, .inl e⟩
  · exact .inr ⟨y, by simpa [hd] using hy, .inl rfl⟩

theorem recorded_bauRecompute (b : Bau) (s : State) (x : Axle) : Recorded s (bauRecompute { s with bau := b }) (.brk x) :=
  recorded_rewrite _ _ _ _ (cau_bauRecompute { s with bau := b } (.brk x))

theorem recorded_of_empty {s t : State} (h : t.cau = cauReset) (c : Channel) : Recorded s t c := by
  intro y hy
  rw [h, cauReset_get] at hy; cases hy

/-- Every move keeps the brake claims within 0 to 850 (R82). -/
theorem Moves.brakesOk {s t : State} (h : Moves s t) : BrakesOk s → BrakesOk t := by
  induction h with
  | refl s => exact id
  | trans _ _ h1 h2 => exact h2 ∘ h1
  | aside h => exact brakesOk_of_recorded h.store fun x => recorded_same _ _ _ (by rw [h.cau])
  | place src c s => exact brakesOk_of_recorded (store_placeClaim s src c) fun x => recorded_place s src c (.brk x)
  | withdraw src c s => exact brakesOk_of_recorded rfl fun x => recorded_withdraw src c (.brk x) s
  | steer j s =>
    exact brakesOk_of_recorded rfl fun x => recorded_same _ _ _ (by unfold runSteer; rw [rewriteChannel_frame]; simp)
  | level h k s => exact brakesOk_of_recorded rfl fun x => recorded_rewriteChannel s _ _ _
  | brake b s => exact brakesOk_of_recorded (store_bauRecompute _) (recorded_bauRecompute b s)
  | detected k src ch item s =>
    exact brakesOk_of_recorded (detect_store _ _ _ _ _) fun x => recorded_same _ _ _ (by rw [cau_detect])
  | kneeled k s => exact brakesOk_of_recorded rfl fun x => recorded_same _ _ _ rfl
  | cleared s => exact brakesOk_of_recorded rfl fun x => recorded_of_empty rfl _

/-- The records of a list after a tick ask for what they asked. -/
theorem recorded_tickTimers (s : State) (c : Channel) : Recorded s (tickTimers s) c := by
  intro y hy
  change y ∈ ((PerChannel.of fun c => tickList (s.cau.get c)).get c).claims at hy
  rw [PerChannel_get_of] at hy
  obtain ⟨x, hx, rfl⟩ := List.mem_map.1 hy
  exact .inr ⟨x, hx, .inl rfl⟩

theorem haltInRange_default : HaltInRange Store.default := by unfold HaltInRange; decide

theorem haltInRange_write {st st' : Store} (wf : storeWf st.items = true) {n : Nat} {v0 v1 v2 : Byte}
    (hw : st.write n v0 v1 v2 = some st') (h : HaltInRange st) : HaltInRange st' := by
  obtain ⟨e | range, -⟩ := Store.write_bounds wf hw
  · unfold HaltInRange Store.haltP; rw [← e]; exact h
  · exact range

theorem brakesOk_claimLaw : ClaimLaw BrakesOk where
  same := fun _ _ hs _ _ hc h => brakesOk_of_recorded hs (fun _ => recorded_same _ _ _ (by rw [hc])) h
  moves := fun _ _ hm => hm.brakesOk
  recompute := fun b s _ h => brakesOk_of_recorded (s := s) (store_bauRecompute _) (recorded_bauRecompute b s) h
  write := fun n v0 v1 v2 st s _ _ hw h => by
    obtain ⟨wf, halt, claims⟩ := h
    exact ⟨Store.write_wf _ _ _ _ _ _ wf hw, haltInRange_write wf hw halt, claims⟩
  locks := fun _ _ h => h
  cleared := fun _ _ hs _ hc h => brakesOk_of_recorded hs (fun _ => recorded_of_empty hc _) h
  reset := ⟨rfl, haltInRange_default, fun axle x hx => by
    change x ∈ (cauReset.get (.brk axle)).claims at hx; rw [cauReset_get] at hx; cases hx⟩
  ticked := fun s h => brakesOk_of_recorded (s := s) rfl (fun _ => recorded_tickTimers s _) h

/-! STR_C and JNT claims (R100, R1) -/

theorem steerJointOk_of_empty {s : State} (wf : StoreOk s) (steer : 20 ≤ s.store.deltaMax)
    (joint : s.store.iBase ≤ s.store.iMax) (empty : ∀ c, (s.cau.get c).claims = []) : SteerJointOk s :=
  ⟨wf, fun _ => empty, steer, joint, by rw [empty]; simp, by rw [empty]; simp⟩

/-- In the modes of rest a record that stands or is new is a contradiction, so what `Recorded` says suffices. -/
theorem steerJointOk_claimLaw : ClaimLaw SteerJointOk where
  same := fun s _ hs hr _ hc h =>
    steerJoint_of_recorded hs hr (fun _ => recorded_same _ _ _ (by rw [hc])) (accepts_resting s) h
  moves := fun _ _ hm => hm.steerJoint
  recompute := fun b s _ h => steerJoint_of_recorded (s := s) (store_bauRecompute _) (resting_bauRecompute { s with bau := b })
    (fun c => by
      cases c with
      | brk x => exact recorded_bauRecompute b s x
      | _ => exact recorded_same _ _ _ (cau_bauRecompute _ _)) (accepts_resting s) h
  write := fun n v0 v1 v2 st s hm _ hw h => by
    obtain ⟨wf, rest, steer, joint, -⟩ := h
    obtain ⟨-, steer', joint', -⟩ := Store.write_bounds wf hw
    refine steerJointOk_of_empty (Store.write_wf _ _ _ _ _ _ wf hw) ?_ (joint' joint) (rest (.inr (.inl hm)))
    rcases steer' with e | bound
    · exact steer.trans e.le
    · exact bound
  locks := fun _ _ h => h
  cleared := fun s t hs _ hc h => by
    obtain ⟨wf, -, steer, joint, -⟩ := h
    exact steerJointOk_of_empty (by unfold StoreOk; rw [hs]; exact wf) (by rw [hs]; exact steer)
      (by rw [hs]; exact joint) fun c => by rw [hc, cauReset_get]
  reset := steerJointOk_of_empty rfl (by decide) (by decide) fun c => by
    change (cauReset.get c).claims = []; rw [cauReset_get]
  ticked := fun s h => steerJoint_of_recorded (s := s) rfl id (fun c => recorded_tickTimers s c) (accepts_resting s) h

/-- The effective setpoint is a claim's or the rest value (R2). -/
theorem effective_cases (s : State) (c : Channel) :
    (∃ x ∈ (s.cau.get c).claims, s.effective c = x.setpoint) ∨ s.effective c = s.store.rest c := by
  unfold State.effective
  cases (s.cau.get c).claims with
  | nil => exact .inr rfl
  | cons x l => exact .inl ⟨x, List.mem_cons_self, rfl⟩

theorem between_iff {lo hi : Int} {sp : Setpoint} : Between lo hi sp ↔ ∃ v, sp = .num v ∧ lo ≤ v ∧ v ≤ hi := by
  cases sp <;> simp [Between]

/-- The effective setpoint lies between two bounds where every claim and the rest value do. -/
theorem between_effective {s : State} {c : Channel} {lo hi : Int} (claims : ∀ x ∈ (s.cau.get c).claims, Between lo hi x.setpoint)
    (rest : Between lo hi (s.store.rest c)) : ∃ v, s.effective c = .num v ∧ lo ≤ v ∧ v ≤ hi := by
  rw [← between_iff]
  rcases effective_cases s c with ⟨x, hx, e⟩ | e <;> rw [e]
  · exact claims x hx
  · exact rest

/-! The halt floor (R86, R87) -/

theorem floorOk_iff {s : State} : FloorOk s ↔ FloorClaims s ∧ 1 ≤ s.store.get 48 ∧ FloorTold s := by
  unfold FloorOk FloorClaims; tauto

/-- The claims' half of the floor law, where no list holds a record. -/
theorem floorClaims_of_empty {s : State} (wf : StoreOk s) (halt : HaltInRange s.store)
    (empty : ∀ c, (s.cau.get c).claims = []) : FloorClaims s :=
  ⟨wf, fun _ => empty, halt, fun axle _ x hx => by rw [empty] at hx; cases hx⟩

/-- The claims' half where claims, store and BAU stand. -/
theorem floorClaims_of_same {s t : State} (hs : t.store = s.store) (hr : Resting t → Resting s) (hc : t.cau = s.cau)
    (hb : t.bau = s.bau) (h : FloorClaims s) : FloorClaims t :=
  FloorClaims.of_same hs hr (by rw [hb]) (by rw [hb]) (fun c y hy => ⟨y, hc ▸ hy, fun _ => rfl⟩) h

/-- What BAU was told, where its copies, what DSV and LKU hold, the store and what waits stand. -/
theorem floorTold_of_same {s t : State} (hs : t.store = s.store) (hb : t.bau = s.bau) (hd : t.dsv.unsecured = s.dsv.unsecured)
    (hk : t.lku.kneel = s.lku.kneel) (hf : t.inFlight = s.inFlight) (h : FloorTold s) : FloorTold t :=
  floorTold_moved (.of_plain (by rw [hb]) (by rw [hb]) (by rw [hb]) hd hs hk ⟨[], by rw [hf, List.append_nil], rfl⟩) h

theorem mem_door_all (n : Door) : n ∈ Door.all := by cases n <;> decide

/-- Only a fitted door is formed UNSECURED (R133). -/
theorem dsvFormed_fitted (st : Store) (d : Dsv) (n : Door) (h : (dsvFormed st d).unsecured.get n = true) :
    st.doorFitted n = true := by
  have : doorUnsecured st d n = true := by simpa [dsvFormed] using h
  unfold doorUnsecured at this
  exact (Bool.and_eq_true _ _ ▸ this).1

/-- Forming the doors keeps what BAU was told: a changed set of UNSECURED doors is announced (R133, R86). -/
theorem floorTold_formDoors {s : State} (d : Dsv) (doors : doorsTold s.bau.doors s.inFlight = s.dsv.unsecured)
    (kneel : kneelTold s.bau.kneel s.inFlight = s.lku.kneel)
    (flag : (∀ d, Ev.doors d ∉ s.inFlight) → (∀ n, s.dsv.unsecured.get n = true → s.store.doorFitted n = true) →
      s.bau.floor = floorStands s.store s.bau.doors s.bau.kneel) : FloorTold (formDoors d s) := by
  obtain ⟨store, -, -, bau, lku, uns, ⟨same, flight⟩ | flight⟩ := formDoors_fields s d
  · refine ⟨by rw [bau, flight, same]; exact doors, by rw [bau, flight, lku]; exact kneel, ?_, ?_⟩
    · rw [uns, store]; exact dsvFormed_fitted _ _
    · rw [flight, bau, store]
      exact fun hd => flag hd fun n hn => dsvFormed_fitted _ d n (by rwa [← uns, same])
  · refine ⟨?_, ?_, ?_, ?_⟩
    · rw [bau, flight, doorsTold_append, uns]; rfl
    · rw [bau, flight, lku, kneelTold_append]; exact kneel
    · rw [uns, store]; exact dsvFormed_fitted _ _
    · intro hd
      exact absurd (by rw [flight]; exact List.mem_append_right _ List.mem_cons_self) (hd _)

/-- BAU's taking of the front announcement keeps what it was told (R86). -/
theorem floorTold_bauTold {e : Ev} {rest : List Ev} {t : State} (he : t.inFlight = e :: rest) (h : FloorTold t) :
    FloorTold (bauTold e { t with inFlight := rest }) := by
  obtain ⟨doors, kneel, fitted, flag⟩ := h
  rw [he] at doors kneel flag
  generalize hu : ({ t with inFlight := rest } : State) = u
  have ub : u.bau = t.bau := by rw [← hu]
  have ud : u.dsv = t.dsv := by rw [← hu]
  have ul : u.lku = t.lku := by rw [← hu]
  have us : u.store = t.store := by rw [← hu]; rfl
  have uf : u.inFlight = rest := by rw [← hu]
  rw [← ub, ← ud] at doors
  rw [← ub, ← ul] at kneel
  rw [← ud, ← us] at fitted
  rw [← ub, ← us] at flag
  have floor : ∀ d k, doorsTold d rest = u.dsv.unsecured → kneelTold k rest = u.lku.kneel → FloorTold (bauFloor d k u) := by
    intro d k hd hk
    obtain ⟨fd, fk, ff, fu, fl, fs, evs, flight, plain⟩ := bauFloor_facts d k u
    rw [uf] at flight
    refine ⟨?_, ?_, by rw [fu, fs]; exact fitted, fun _ => by rw [ff, fd, fk, fs]⟩
    · rw [fd, flight, doorsTold_append, doorsTold_none _ evs (plain_nodoors evs plain), fu]; exact hd
    · rw [fk, flight, kneelTold_append, kneelTold_plain _ evs plain, fl]; exact hk
  have other : (∀ d, e ≠ .doors d) → doorsTold u.bau.doors rest = u.dsv.unsecured →
      kneelTold u.bau.kneel rest = u.lku.kneel → FloorTold u := fun hne hd hk =>
    ⟨by rw [uf]; exact hd, by rw [uf]; exact hk, fitted, fun hn => flag fun d hm => by
      rcases List.mem_cons.1 hm with e' | hm
      · exact hne d e'.symm
      · exact hn d (by rw [uf]; exact hm)⟩
  cases e with
  | doors d => exact floor d u.bau.kneel doors kneel
  | kneel k => exact floor u.bau.doors k doors kneel
  | _ => exact other nofun doors kneel

/-- BAU's taking of an announcement keeps the claims' half (R86, R87). -/
theorem floorClaims_bauTold {e : Ev} {s : State} (h : FloorClaims s) : FloorClaims (bauTold e s) := by
  cases e with
  | doors d => exact bauFloor_floorClaims d s.bau.kneel s h
  | kneel k => exact bauFloor_floorClaims s.bau.doors k s h
  | _ => exact h

theorem floorOk_moved {s t : State} (hm : Moves s t) (h : FloorOk s) : FloorOk t := by
  obtain ⟨claims, count, told⟩ := floorOk_iff.1 h
  exact floorOk_iff.2 ⟨hm.floorClaims claims, by rw [hm.resting.1]; exact count, floorTold_moved hm.toldBy told⟩

/-- A change of the mode alone, or of what no half of the law speaks of. -/
theorem floorOk_of_same {s t : State} (hs : t.store = s.store) (hr : Resting t → Resting s) (hc : t.cau = s.cau)
    (hb : t.bau = s.bau) (hd : t.dsv.unsecured = s.dsv.unsecured) (hk : t.lku.kneel = s.lku.kneel)
    (hf : ∃ evs, t.inFlight = s.inFlight ++ evs ∧ evs.all plainEv = true) (h : FloorOk s) : FloorOk t := by
  obtain ⟨claims, count, told⟩ := floorOk_iff.1 h
  exact floorOk_iff.2 ⟨floorClaims_of_same hs hr hc hb claims, by rw [hs]; exact count,
    floorTold_moved (.of_plain (by rw [hb]) (by rw [hb]) (by rw [hb]) hd hs hk hf) told⟩

theorem floorOk_formDoors (d : Dsv) {s : State} (h : FloorOk s) : FloorOk (formDoors d s) := by
  obtain ⟨claims, count, doors, kneel, -, flag⟩ := floorOk_iff.1 h
  obtain ⟨store, mode, cau, bau, -⟩ := formDoors_fields s d
  exact floorOk_iff.2 ⟨floorClaims_of_same store (fun hr => by unfold Resting at hr ⊢; rwa [mode] at hr) cau bau claims,
    by rw [store]; exact count, floorTold_formDoors d doors kneel fun hd _ => flag hd⟩

/-- A taken write keeps the floor law: no list holds a record in CONFIG, and a write of the door count forms the doors anew
(R129). -/
theorem floorOk_takeWrite {n : Nat} {v0 v1 v2 : Byte} {st : Store} {s : State} (hm : s.mode = .config)
    (hw : s.store.write n v0 v1 v2 = some st) (h : FloorOk s) : FloorOk (takeWrite n st s) := by
  obtain ⟨⟨wf, rest, halt, -⟩, count, doors, kneel, fitted, flag⟩ := floorOk_iff.1 h
  obtain ⟨-, -, -, count', same48⟩ := Store.write_bounds wf hw
  have plain := restEvents_plain s st
  have none := plain_nodoors _ plain
  have empty : ∀ c, (s.cau.get c).claims = [] := rest (.inr (.inl hm))
  have claims : FloorClaims (storeTaken st s) :=
    floorClaims_of_empty (Store.write_wf _ _ _ _ _ _ wf hw) (haltInRange_write wf hw halt) empty
  have some_door : 1 ≤ (storeTaken st s).store.get 48 := by
    rcases count' with e | bound
    · exact e ▸ count
    · exact bound
  have told_doors : doorsTold s.bau.doors (s.inFlight ++ restEvents s st) = s.dsv.unsecured := by
    rw [doorsTold_append, doorsTold_none _ _ none, doors]
  have told_kneel : kneelTold s.bau.kneel (s.inFlight ++ restEvents s st) = s.lku.kneel := by
    rw [kneelTold_append, kneelTold_plain _ _ plain, kneel]
  -- while no set of doors waits, the flag is what the new store gives, if it fits the UNSECURED doors
  have told_flag : (∀ d, Ev.doors d ∉ s.inFlight ++ restEvents s st) →
      (∀ n, s.dsv.unsecured.get n = true → st.doorFitted n = true) →
      s.bau.floor = floorStands st s.bau.doors s.bau.kneel := by
    intro hd hn
    have hd : ∀ d, Ev.doors d ∉ s.inFlight := fun d hm => hd d (List.mem_append_left _ hm)
    have e : s.bau.doors = s.dsv.unsecured := by rw [← doors, doorsTold_none _ _ hd]
    rw [flag hd, e]
    exact floorStands_store _ _ _ _ fitted hn
  rw [takeWrite_eq]
  by_cases h48 : st.get 48 = s.store.get 48
  · have told : FloorTold (storeTaken st s) := by
      have same : ∀ n, st.doorFitted n = s.store.doorFitted n := fun n => by
        unfold Store.doorFitted Store.doorCount; rw [h48]
      have fitted' : ∀ n, s.dsv.unsecured.get n = true → st.doorFitted n = true := fun n hn => by rw [same, fitted n hn]
      exact ⟨told_doors, told_kneel, fitted', fun hd => told_flag hd fitted'⟩
    refine floorOk_moved ?_ (floorOk_iff.2 ⟨claims, some_door, told⟩)
    by_cases hn : n = 48
    · subst hn
      rw [show blockActs 48 s.store (storeTaken st s) = storeTaken st s from if_pos h48]
      exact .refl _
    · exact blockActs_moves _ n s.store hn
  · have hn : n = 48 := by_contra fun hn => h48 (same48 hn)
    subst hn
    rw [show blockActs 48 s.store (storeTaken st s) = dsvFitting (storeTaken st s) from if_neg h48]
    obtain ⟨store, mode, cau⟩ := dsvFitting_fields (storeTaken st s)
    obtain ⟨-, -, -, bau, -⟩ := formDoors_fields (storeTaken st s) { (storeTaken st s).dsv with
      reports := .of fun n => if (storeTaken st s).store.doorFitted n then (storeTaken st s).dsv.reports.get n else .unknown }
    exact floorOk_iff.2
      ⟨floorClaims_of_same store (fun hr => by unfold Resting at hr ⊢; rwa [mode] at hr) cau bau claims,
        by rw [store]; exact some_door, floorTold_formDoors _ told_doors told_kneel told_flag⟩

/-- The floor law right after a reset: the lists are empty, and the flag stands with every fitted door UNSECURED (R92,
R142). -/
theorem floorOk_of_reset {s : State} (wf : StoreOk s) (halt : HaltInRange s.store) (count : 1 ≤ s.store.get 48)
    (hc : s.cau = cauReset) (hb : s.bau = bauReset s.store) (hd : s.dsv = dsvReset s.store) (hl : s.lku = lkuReset)
    (hf : s.inFlight = []) : FloorOk s := by
  refine floorOk_iff.2 ⟨floorClaims_of_empty wf halt fun c => by rw [hc, cauReset_get], count, ?_, ?_, ?_, ?_⟩
  · rw [hf, hb, hd]; rfl
  · rw [hf, hb, hl]; rfl
  · rw [hd]
    intro n hn
    simpa [dsvReset, doorsReset] using hn
  · rw [hb]; exact fun _ => (floorStands_reset s.store count).symm

theorem floorOk_law : Law FloorOk where
  moves := fun _ _ hm => floorOk_moved hm
  told := fun e rest t he h => by
    obtain ⟨claims, count, told⟩ := floorOk_iff.1 h
    have claims : FloorClaims { t with inFlight := rest } := floorClaims_of_same (s := t) rfl id rfl rfl claims
    have store : (bauTold e { t with inFlight := rest }).store = t.store := by
      generalize hu : ({ t with inFlight := rest } : State) = u
      have us : u.store = t.store := by rw [← hu]; rfl
      rcases bauTold_cases e u with ⟨b, hb⟩ | ⟨b, -, hb⟩ <;> rw [hb]
      · exact us
      · rw [store_bauRecompute]; exact us
    exact floorOk_iff.2 ⟨floorClaims_bauTold claims, by rw [store]; exact count, floorTold_bauTold he told⟩
  doors := fun d _ h => floorOk_formDoors d h
  mode := fun m s hm hp h => floorOk_of_same (s := s) rfl
    (fun hr => hm (by rcases hr with e | e | e; exacts [absurd e hp, .inl e, .inr e])) rfl rfl rfl rfl ⟨_, rfl, rfl⟩ h
  enter := fun s hs h => floorOk_of_same (s := s) rfl (fun _ => .inl hs) rfl rfl rfl rfl ⟨_, rfl, rfl⟩ h
  write := fun _ _ _ _ _ _ hm _ hw h => floorOk_takeWrite hm hw h
  locks := fun _ _ h => h
  warm := fun c s h => by
    obtain ⟨⟨wf, -, halt, -⟩, count, -⟩ := floorOk_iff.1 h
    rw [warmReset_eq]
    exact floorOk_moved (pollNext_moves _) (floorOk_of_reset wf halt count rfl rfl rfl rfl rfl)
  power := fun s _ => floorOk_of_reset rfl haltInRange_default (show 1 ≤ Store.default.get 48 by decide) rfl rfl rfl rfl rfl
  ticked := fun s h => by
    obtain ⟨⟨wf, rest, halt, claims⟩, count, told⟩ := floorOk_iff.1 h
    have asks : ∀ c, ∀ y ∈ ((tickTimers s).cau.get c).claims, ∃ x ∈ (s.cau.get c).claims, x.asks = y.asks := by
      intro c y hy
      change y ∈ ((PerChannel.of fun c => tickList (s.cau.get c)).get c).claims at hy
      rw [PerChannel_get_of] at hy
      obtain ⟨x, hx, rfl⟩ := List.mem_map.1 hy
      exact ⟨x, hx, rfl⟩
    exact floorOk_iff.2 ⟨FloorClaims.of_same (s := s) rfl id rfl rfl
      (fun c y hy => by obtain ⟨x, hx, e⟩ := asks c y hy; exact ⟨x, hx, fun _ => e⟩) ⟨wf, rest, halt, claims⟩, count,
      floorTold_of_same (s := s) rfl rfl rfl rfl rfl told⟩

/-- While the flag stands the effective setpoints of BRK_B and BRK_C are at least H (R87). -/
theorem floored_effective {s : State} (h : FloorOk s) {axle : Axle} (ha : axle ≠ .a) (flag : s.bau.floor = true) :
    ∃ v, s.effective (.brk axle) = .num v ∧ s.store.haltP ≤ v ∧ v ≤ 850 := by
  obtain ⟨-, -, ⟨-, high⟩, -, -, claims⟩ := h
  exact between_effective (fun x hx => (claims axle ha x hx).1 flag) ⟨le_rfl, by omega⟩

/-- Once nothing waits, an UNSECURED fitted door or a kneel state other than NORMAL makes the flag stand (R86). -/
theorem floor_of_unsecured {s : State} (h : FloorOk s) (settled : s.inFlight = [])
    (cause : (∃ n, s.store.doorFitted n = true ∧ s.dsv.unsecured.get n = true) ∨ s.lku.kneel ≠ .normal) :
    s.bau.floor = true := by
  obtain ⟨-, -, -, -, ⟨doors, kneel, -, flag⟩, -⟩ := h
  rw [settled] at doors kneel flag
  have doors : s.bau.doors = s.dsv.unsecured := doors
  have kneel : s.bau.kneel = s.lku.kneel := kneel
  rw [flag (by simp), doors, kneel, floorStands, Bool.or_eq_true, List.any_eq_true]
  rcases cause with ⟨n, fitted, uns⟩ | lowered
  · exact .inl ⟨n, mem_door_all n, by rw [fitted, uns]; rfl⟩
  · exact .inr (by simpa using lowered)

/-- Settles O54: the brake claims by a law of the claim lists, the floor by a law of the steps; the setpoints follow from the
claims and the rest value. -/
theorem stepKeepsBrakeSetpoints : Obligations.StepKeepsBrakeSetpoints := by
  refine ⟨brakesOk_claimLaw.law.kept, floorOk_law.kept, fun s h axle ha => ⟨fun flag => floored_effective h ha flag, ?_⟩⟩
  intro settled cause
  have flag := floor_of_unsecured h settled cause
  exact ⟨flag, floored_effective h ha flag⟩

/-- In a state that keeps the law the STR_C setpoint lies within the steer limit and JNT's within [I_base, I_max] (R100, R1). -/
theorem steerJoint_effective {s : State} (h : SteerJointOk s) :
    (∃ v, s.effective .str = .num v ∧ -s.store.deltaMax ≤ v ∧ v ≤ s.store.deltaMax) ∧
    (∃ v, s.effective .jnt = .num v ∧ s.store.iBase ≤ v ∧ v ≤ s.store.iMax) := by
  obtain ⟨-, -, steer, joint, str, jnt⟩ := h
  exact ⟨between_effective str ⟨by omega, by omega⟩, between_effective jnt ⟨joint, le_rfl⟩⟩

end Sys2Proof.Machine
end

section

/-! PROOFS. What every operation keeps of the queue of commands, the notice queues, the release outputs, the vote, the FATAL
statuses, the steer value sent and the load estimates. -/

namespace Sys2Proof.Machine

open Sys2Proof.Safety

/-- From `s` to `t` the queue of commands stands, and each law that holds of `s` holds of `t`. A law that an operation does not
touch it keeps by definition: its lemma takes those from `Keeps.refl` and names the ones it touches. -/
structure Keeps (s t : State) : Prop where
  pending : t.pending = s.pending
  queues : QueuesOk s → QueuesOk t
  outputs : OutputsOk s → OutputsOk t
  vote : VoteOk s → VoteOk t
  fatal : FatalOk s → FatalOk t
  sent : SentOk s → SentOk t
  loads : LoadsOk s → LoadsOk t

theorem Keeps.refl (s : State) : Keeps s s := ⟨rfl, id, id, id, id, id, id⟩

theorem Keeps.trans {s t u : State} (h : Keeps s t) (g : Keeps t u) : Keeps s u where
  pending := g.pending.trans h.pending
  queues := g.queues ∘ h.queues
  outputs := g.outputs ∘ h.outputs
  vote := g.vote ∘ h.vote
  fatal := g.fatal ∘ h.fatal
  sent := g.sent ∘ h.sent
  loads := g.loads ∘ h.loads

/-- The last step first. -/
theorem Keeps.after {s t u : State} (g : Keeps t u) (h : Keeps s t) : Keeps s u := h.trans g

/-- A chain of two: the second step is taken from whatever the first leaves. -/
theorem Keeps.andThen {s t : State} {f : State → State} (h : Keeps s t) (g : ∀ u, Keeps u (f u)) : Keeps s (f t) :=
  h.trans (g t)

variable (s : State)

/-! Announcements and notices -/

/-- Notices offered keep the queues within their bounds (R192). -/
theorem queuesOk_offerMany {s t : State} (ns : List Notice) (h : t.mpi = offerMany s.store ns s.mpi) :
    QueuesOk s → QueuesOk t := fun hs => by
  unfold QueuesOk; rw [h]; exact queueOk_offerMany s.store ns s.mpi hs

/-- A port state with the same queue. -/
theorem queuesOk_set {s t : State} {p : Port} {q : PortState} (h : t.mpi = s.mpi.set p q)
    (hq : QueueOk (s.mpi.get p) → QueueOk q) : QueuesOk s → QueuesOk t := by
  intro hs r
  rw [h, PerPort_get_set]
  split
  · exact hq (hs p)
  · exact hs r

theorem announce_keeps (evs : List Ev) : Keeps s (announce evs s) where
  __ := Keeps.refl s

theorem offer_keeps (n : Notice) : Keeps s (offer n s) where
  __ := Keeps.refl s
  queues := queuesOk_offerMany [n] rfl

theorem answer_keeps (p : Port) (k : Byte) (rep : Reply) : Keeps s (answer p k rep s) where
  __ := Keeps.refl s
  queues := queuesOk_set rfl id

theorem closeTransfer_keeps (p : Port) : Keeps s (closeTransfer p s) where
  __ := Keeps.refl s
  queues := queuesOk_set rfl id

theorem drawFree_keeps : Keeps s (drawFree s) where
  __ := Keeps.refl s

/-! CAU -/

theorem changeList_keeps (c : Channel) (new : ClaimList) : Keeps s (changeList c new s) where
  __ := Keeps.refl s
  queues := queuesOk_offerMany (claimNotices c (s.cau.get c).claims new.claims) rfl

theorem placeClaim_keeps (src : Source) (c : Channel) : Keeps s (placeClaim src c s) := by
  unfold placeClaim; split
  · exact Keeps.after (changeList_keeps _ _ _) { Keeps.refl _ with }
  · exact .refl s

theorem placeClaims_keeps (src : Source) (cs : List Channel) : Keeps s (placeClaims src cs s) :=
  placeClaims_induction (Keeps s) src (fun _ _ h => h.andThen fun u => placeClaim_keeps u _ _) cs s (.refl s)

theorem withdrawClaim_keeps (src : Source) (c : Channel) : Keeps s (withdrawClaim src c s) := changeList_keeps _ _ _

theorem withdrawClaims_keeps (src : Source) (cs : List Channel) : Keeps s (withdrawClaims src cs s) :=
  withdrawClaims_induction (Keeps s) src (fun _ _ h => h.andThen fun u => withdrawClaim_keeps u _ _) cs s (.refl s)

theorem rewriteChannel_keeps (c : Channel) (f : Source → Option Setpoint) : Keeps s (rewriteChannel c f s) :=
  changeList_keeps _ _ _

theorem rewriteChannels_keeps (cs : List Channel) (f : Channel → Source → Option Setpoint) :
    Keeps s (rewriteChannels cs f s) :=
  rewriteChannels_induction (Keeps s) f (fun _ _ h => h.andThen fun u => rewriteChannel_keeps u _ _) cs s (.refl s)

theorem clearLists_keeps : Keeps s (clearLists s) where
  __ := Keeps.refl s

/-! MC and FU -/

/-- A mode that is neither RUN nor DEGRADED says nothing of FATAL statuses (R165). -/
theorem fatalOk_of_mode {t : State} (h : t.mode ≠ .run ∧ t.mode ≠ .degraded) : FatalOk t :=
  fun hm => absurd hm (by simp [h])

/-- A mode change keeps every law where it keeps that of FATAL statuses. -/
theorem setMode_keeps (m : Mode) (h : FatalOk s → FatalOk (setMode m s)) : Keeps s (setMode m s) where
  __ := Keeps.refl s
  queues := queuesOk_offerMany [.modeChanged s.mode m] rfl
  fatal := h

theorem detectRecord_has (k : FaultKind) (src : FaultSource) (ch : Option Channel) (item : LogItem) (j : FaultKind)
    (h : (detectRecord k src ch item s).fu.has j = true) : j = k ∨ s.fu.has j = true := by
  have bits : (s.fu.status ||| kindBit k).getLsbD j.no = true := h
  rw [BitVec.getLsbD_or, Bool.or_eq_true] at bits
  rcases bits with old | new
  · exact .inr old
  · refine .inl ?_
    cases k <;> cases j <;> first | rfl | exact absurd new (by decide)

/-- A kind of FATAL severity takes RUN and DEGRADED to SAFE_STOP (R162, R165). -/
theorem severity_of_detectMode {k : FaultKind} (h : detectMode k s = .run ∨ detectMode k s = .degraded) :
    s.store.severity k ≠ .fatal ∧ (s.mode = .run ∨ s.mode = .degraded) := by
  have key : ∀ m, modeAfter .fatal m ≠ .run ∧ modeAfter .fatal m ≠ .degraded := by
    intro m; cases m <;> decide
  have back : ∀ sev m, modeAfter sev m = .run ∨ modeAfter sev m = .degraded → m = .run ∨ m = .degraded := by
    intro sev m; cases sev <;> cases m <;> simp [modeAfter]
  refine ⟨fun fatal => ?_, back _ _ h⟩
  have applied : appliedSeverity s.store s.fu s.mode k = .fatal := by
    unfold appliedSeverity; split
    · rfl
    · exact fatal
  rw [detectMode, applied] at h
  exact h.elim (key _).1 (key _).2

/-- A detection leaves RUN and DEGRADED free of FATAL statuses (R165). -/
theorem fatalOk_detect (k : FaultKind) (src : FaultSource) (ch : Option Channel) (item : List Byte) (h : FatalOk s) :
    FatalOk (detect k src ch item s) := by
  by_cases asleep : s.mode = .powerup
  · unfold detect; rw [if_pos asleep]; exact h
  · have mode : (detect k src ch item s).mode = detectMode k s := by
      unfold detect; rw [if_neg asleep]; split
      · rename_i e; exact e.symm
      · rfl
    have has : ∀ j, (detect k src ch item s).fu.has j = true → j = k ∨ s.fu.has j = true := fun j hj => by
      unfold detect at hj; rw [if_neg asleep] at hj
      split at hj <;> exact detectRecord_has s k src ch _ j hj
    intro hm j hj
    rw [mode] at hm
    obtain ⟨severity, before⟩ := severity_of_detectMode s hm
    rw [detect_store]
    rcases has j hj with rfl | old
    · exact severity
    · exact h before j old

theorem detect_keeps (k : FaultKind) (src : FaultSource) (ch : Option Channel) (item : List Byte) :
    Keeps s (detect k src ch item s) where
  __ := Keeps.refl s
  pending := by rw [detect_frame]
  queues := by
    have recorded : ∀ i, QueuesOk s → QueuesOk (detectRecord k src ch i s) := fun i =>
      queuesOk_offerMany (detectNotices s.store s.fu s.mode k src) rfl
    intro h; unfold detect; split
    · exact h
    · split
      · exact recorded _ h
      · exact queuesOk_offerMany [.modeChanged s.mode (detectMode k s)] rfl (recorded ⟨k.itemKind, item⟩ h)
  outputs := by rw [detect_frame]; exact id
  vote := by rw [detect_frame]; exact id
  fatal := fatalOk_detect s k src ch item
  sent := fun h => by unfold SentOk StoreOk; rw [detect_store, detect_frame]; exact h
  loads := fun h => by unfold LoadsOk StoreOk; rw [detect_store, detect_frame]; exact h

theorem mcWith_keeps (m : Mc) (hs : m.store = s.mc.store) (hm : m.mode = s.mc.mode) : Keeps s { s with mc := m } where
  __ := Keeps.refl s
  fatal := fun h => by unfold FatalOk State.mode State.store; rw [hm, hs]; exact h
  sent := fun h => by unfold SentOk StoreOk State.store; rw [hs]; exact h
  loads := fun h => by unfold LoadsOk StoreOk State.store; rw [hs]; exact h

/-! BAU -/

theorem raiseSaturated_keeps (b : PerAxle Bool) (x : Axle) : Keeps s (raiseSaturated b x s) := by
  unfold raiseSaturated; split
  · exact detect_keeps _ _ _ _ _
  · exact .refl s

theorem bauRecompute_keeps : Keeps s (bauRecompute s) := by
  have formed : Keeps s { s with bau := { s.bau with saturated := saturationNow s.store s.bau } } := { Keeps.refl _ with }
  exact ((((formed.andThen fun u => raiseSaturated_keeps u _ .a).andThen fun u => raiseSaturated_keeps u _ .b).andThen
    fun u => raiseSaturated_keeps u _ .c).trans (rewriteChannel_keeps _ _ _)).trans
      ((rewriteChannel_keeps _ _ _).trans (rewriteChannel_keeps _ _ _))

/-- BAU's inputs take a value and it recomputes (R88). -/
theorem bauWith_keeps (b : Bau) (h : LoadsOk s → LoadsOk { s with bau := b }) :
    Keeps s (bauRecompute { s with bau := b }) :=
  Keeps.after (bauRecompute_keeps _) { Keeps.refl s with loads := h }

theorem bauDemand_keeps (d : Int) : Keeps s (bauDemand d s) := by
  unfold bauDemand; split
  · exact .refl s
  · exact bauWith_keeps s _ id

theorem bauEmerg_keeps (b : Bool) : Keeps s (bauEmerg b s) := by
  unfold bauEmerg; split
  · exact .refl s
  · exact bauWith_keeps s _ id

theorem bauAtRest_keeps (b : Bool) : Keeps s (bauAtRest b s) := by
  unfold bauAtRest; split
  · exact .refl s
  · exact bauWith_keeps s _ id

theorem bauFloor_keeps (d : PerDoor Bool) (k : KneelState) : Keeps s (bauFloor d k s) := by
  unfold bauFloor; split
  · exact { Keeps.refl _ with }
  · exact bauWith_keeps s _ id

theorem bauNode_keeps (x : Axle) (st : NodeState) : Keeps s (bauNode x st s) := by
  unfold bauNode; split
  · exact .refl s
  · exact bauWith_keeps s _ id

/-- The load estimates within their limits, whatever the rest of the state (R76). -/
def LoadsIn (st : Store) (load : PerAxle Int) : Prop := ∀ x, st.lMin x ≤ load.get x ∧ load.get x ≤ st.lMax x

/-- N_a clamped lies within the limits where these are in order (R77). -/
theorem nominalLoad_in {st : Store} {x : Axle} (h : st.lMin x ≤ st.lMax x) :
    st.lMin x ≤ nominalLoad st x ∧ nominalLoad st x ≤ st.lMax x := clamp_between _ _ _ h

theorem loadsIn_nominal {st : Store} (h : ∀ x, st.lMin x ≤ st.lMax x) : LoadsIn st (.of (nominalLoad st)) := fun x => by
  rw [PerAxle_get_of]; exact nominalLoad_in (h x)

theorem LoadsIn.ordered {st : Store} {load : PerAxle Int} (h : LoadsIn st load) (x : Axle) : st.lMin x ≤ st.lMax x :=
  (h x).1.trans (h x).2

theorem bauMode_keeps (prev new : Mode) : Keeps s (bauMode prev new s) := by
  refine bauWith_keeps s _ ?_
  rintro ⟨wf, loads⟩
  refine ⟨wf, ?_⟩
  change LoadsIn s.store (if new = .run ∧ (prev = .config ∨ prev = .standby) then .of (nominalLoad s.store) else s.bau.load)
  split
  · exact loadsIn_nominal (LoadsIn.ordered loads)
  · exact loads

/-- A load estimate formed from two samples, or left alone (R76). -/
theorem loadAfter_in {st : Store} {b : Bau} (h : LoadsIn st b.load) (x : Axle) (g : Bool) :
    st.lMin x ≤ loadAfter st b x g ∧ loadAfter st b x g ≤ st.lMax x := by
  unfold loadAfter; split
  · exact clamp_between _ _ _ (h.ordered x)
  · exact h x

theorem bauLoad_keeps (x : Axle) (l : Int) (h : LoadsOk s → s.store.lMin x ≤ l ∧ l ≤ s.store.lMax x) :
    Keeps s (bauLoad x l s) := by
  unfold bauLoad; split
  · exact .refl s
  · refine bauWith_keeps s _ fun hs => ⟨hs.1, fun y => ?_⟩
    change s.store.lMin y ≤ (s.bau.load.set x l).get y ∧ (s.bau.load.set x l).get y ≤ s.store.lMax y
    rw [PerAxle_get_set]
    split
    · rename_i e; rw [e]; exact h hs
    · exact hs.2 y

theorem bauPressure_keeps (k : Corner) (p : Int) (g : Bool) : Keeps s (bauPressure k p g s) := by
  have stored : Keeps s { s with bau := bauStored k p g s.bau } := { Keeps.refl _ with }
  exact stored.trans (bauLoad_keeps _ _ _ fun h => loadAfter_in (st := s.store) (b := bauStored k p g s.bau) h.2 _ g)

/-! SJU -/

/-- SJU's record takes a value with the same value sent. -/
theorem sjuWith_keeps (j : Sju) (h : j.lastSent = s.sju.lastSent) : Keeps s { s with sju := j } where
  __ := Keeps.refl s
  sent := fun hs => by
    unfold SentOk StoreOk at hs ⊢
    change _ ∧ _ ∧ _ ≤ j.lastSent ∧ j.lastSent ≤ _
    rw [h]; exact hs

theorem runSteer_keeps (j : Sju) (h : j.lastSent = s.sju.lastSent) : Keeps s (runSteer j s) :=
  (sjuWith_keeps s (sjuSteered s.store j) h).trans (rewriteChannel_keeps _ _ _)

theorem runJoint_keeps : Keeps s (runJoint s) := by
  unfold runJoint; split
  · exact Keeps.after (placeClaim_keeps _ _ _) { Keeps.refl _ with }
  · exact { Keeps.refl _ with }

theorem centre_keeps : Keeps s (centre s) := by
  unfold centre; split
  · exact placeClaim_keeps _ _ _
  · exact withdrawClaim_keeps _ _ _

theorem setCentring_keeps (c : Centring) : Keeps s (setCentring c s) := by
  unfold setCentring; split
  · exact .refl s
  · exact Keeps.after (centre_keeps _) { Keeps.refl _ with }

theorem judgeExcursion_keeps : Keeps s (judgeExcursion s) := by
  unfold judgeExcursion; split
  · split
    · exact .refl s
    · exact (detect_keeps _ _ _ _ _).trans (setCentring_keeps _ _)
  · exact setCentring_keeps _ _

theorem sjuTheta_keeps (th r : Int) (v smp : Bool) : Keeps s (sjuTheta th r v smp s) := by
  have run : Keeps s (runJoint (runSteer { s.sju with theta := th, rate := r, rateValid := v } s)) :=
    Keeps.after (runJoint_keeps _) (runSteer_keeps s _ rfl)
  unfold sjuTheta; split
  · exact run.trans (judgeExcursion_keeps _)
  · exact run

theorem sjuAtRest_keeps (b : Bool) : Keeps s (sjuAtRest b s) := Keeps.after (runJoint_keeps _) { Keeps.refl _ with }

theorem sjuMode_keeps (prev new : Mode) : Keeps s (sjuMode prev new s) := by
  unfold sjuMode; split
  · refine Keeps.trans ?_ (centre_keeps _)
    split
    · exact Keeps.after (placeClaim_keeps _ _ _) { Keeps.refl _ with }
    · exact { Keeps.refl _ with }
  · exact setCentring_keeps _ _

theorem sjuEffective_keeps (sp : Setpoint) : Keeps s (sjuEffective sp s) where
  __ := Keeps.refl s

/-- The limiter's next value lies within the steer limit (R100). -/
theorem limitStep_in {st : Store} (h : 20 ≤ st.deltaMax) (j : Sju) :
    -st.deltaMax ≤ limitStep st j ∧ limitStep st j ≤ st.deltaMax := clamp_between _ _ _ (by omega)

/-- A poll sends the value that stands, or the limiter's next (R100). -/
theorem sjuPolled_keeps (n : Node) : Keeps s { s with sju := sjuPolled s n } where
  __ := Keeps.refl s
  sent := fun ⟨wf, limit, sent⟩ => by
    refine ⟨wf, limit, ?_⟩
    change -s.store.deltaMax ≤ (sjuPolled s n).lastSent ∧ (sjuPolled s n).lastSent ≤ s.store.deltaMax
    unfold sjuPolled; split
    · exact limitStep_in limit.1 s.sju
    · exact sent

/-! LKU -/

theorem setCorner_keeps (k : Corner) (c : CornerState) : Keeps s (setCorner k c s) where
  __ := Keeps.refl s

theorem formHLane_keeps (l : Lku) : Keeps s (formHLane l s) := by
  unfold formHLane; split
  · exact { Keeps.refl _ with }
  · exact Keeps.after (rewriteChannels_keeps _ _ _) { Keeps.refl _ with }

theorem setKneel_keeps (k : KneelState) : Keeps s (setKneel k s) where
  __ := Keeps.refl s

theorem judgeKneel_keeps (k : Corner) : Keeps s (judgeKneel k s) := by
  unfold judgeKneel; split
  · exact .refl s
  · exact setKneel_keeps _ _

theorem lkuChannel_keeps (k : Corner) (h : Option Source) (sp : Setpoint) : Keeps s (lkuChannel k h sp s) :=
  (setCorner_keeps s k _).trans (judgeKneel_keeps _ _)

theorem lkuAtRest_keeps (b : Bool) : Keeps s (lkuAtRest b s) where
  __ := Keeps.refl s

theorem levelResponse_keeps (k : Corner) (h p : Int) : Keeps s (levelResponse k h p s) :=
  ((bauPressure_keeps s k p _).trans (setCorner_keeps _ k _)).trans (judgeKneel_keeps _ _)

theorem persistExpiry_keeps (k : Corner) : Keeps s (persistExpiry k s) := by
  unfold persistExpiry; split
  · exact setCorner_keeps _ _ _
  · exact .refl s

theorem valveRunExpiry_keeps (k : Corner) : Keeps s (valveRunExpiry k s) := by
  unfold valveRunExpiry; split
  · exact (setCorner_keeps _ _ _).trans (detect_keeps _ _ _ _ _)
  · exact .refl s

theorem kneelExpiry_keeps : Keeps s (kneelExpiry s) := by
  unfold kneelExpiry; split
  · exact (detect_keeps _ _ _ _ _).trans (setKneel_keeps _ _)
  · exact .refl s

/-! DSV -/

/-- DSV's record with the same outputs, formed anew (R133). -/
theorem formDoors_keeps (d : Dsv) (h : d.outputs = s.dsv.outputs) : Keeps s (formDoors d s) := by
  have outputs : ∀ t : State, t.mru = s.mru → t.dsv = dsvFormed s.store d → OutputsOk s → OutputsOk t := by
    intro t hm hd ho hr n
    rw [hm] at hr
    rw [hd]; change d.outputs.get n = false
    rw [h]; exact ho hr n
  unfold formDoors; split
  · exact { Keeps.refl s with outputs := outputs _ rfl rfl }
  · exact { Keeps.refl s with outputs := outputs _ rfl rfl, queues := queuesOk_offerMany [permitNotice (dsvFormed s.store d)] rfl }

theorem outputsOf_clear (on : PerDoor Bool) (n : Door) : (outputsOf on false).get n = false := by
  simp [outputsOf]

/-- The outputs follow the copies and MRU's flag (R139). -/
theorem dsvChannel_keeps (n : Door) (sp : Setpoint) : Keeps s (dsvChannel n sp s) := by
  have follow : ∀ t : State, t.mru = s.mru →
      t.dsv.outputs = outputsOf (s.dsv.releaseOn.set n (sp == .on)) s.mru.atRest → OutputsOk s → OutputsOk t := by
    intro t hm hd _ hr n
    rw [hm] at hr
    rw [hd, hr]; exact outputsOf_clear _ n
  unfold dsvChannel; simp only; split
  · exact { Keeps.refl s with outputs := follow _ rfl rfl }
  · exact { Keeps.refl s with outputs := follow _ rfl rfl, queues := queuesOk_offerMany [_] rfl }

theorem dsvKneel_keeps (k : KneelState) : Keeps s (dsvKneel k s) := by
  unfold dsvKneel; split
  · exact .refl s
  · exact { Keeps.refl s with queues := queuesOk_offerMany [_] rfl }

theorem dsvFitting_keeps : Keeps s (dsvFitting s) := formDoors_keeps s _ rfl

theorem sampleContact_keeps (n : Door) (b : Bool) : Keeps s (sampleContact n b s) := by
  unfold sampleContact; split
  · exact { Keeps.refl _ with }
  · exact formDoors_keeps s _ rfl

theorem staleExpiry_keeps : Keeps s (staleExpiry s) := by
  unfold staleExpiry; split
  · exact ((drawFree_keeps s).trans (detect_keeps _ _ _ _ _)).trans (formDoors_keeps _ _ rfl)
  · exact .refl s

theorem disagreeExpiry_keeps (n : Door) : Keeps s (disagreeExpiry n s) := by
  unfold disagreeExpiry; split
  · exact Keeps.after (detect_keeps _ _ _ _ _) { Keeps.refl _ with }
  · exact .refl s

/-! MRU -/

/-- MRU's record takes a value with the same at-rest flag. -/
theorem mruWith_keeps (m : Mru) (h : m.atRest = s.mru.atRest) : Keeps s { s with mru := m } where
  __ := Keeps.refl s
  outputs := fun hs hr => hs (h ▸ hr)

/-- The release outputs go OFF with the at-rest flag (R139). -/
theorem setAtRest_keeps (b : Bool) : Keeps s (setAtRest b s) := by
  unfold setAtRest; split
  · exact .refl s
  · exact { Keeps.refl s with
      queues := queuesOk_offerMany [_] rfl
      outputs := fun _ hr n => by
        have hb : b = false := hr
        change (outputsOf s.dsv.releaseOn b).get n = false
        rw [hb]; exact outputsOf_clear _ n }

theorem formSpeed_keeps (m : Mru) (h : m.atRest = s.mru.atRest) : Keeps s (formSpeed m s) := by
  have formed : Keeps s (announce (speedEvents m) { s with mru := mruFormed m }) :=
    (mruWith_keeps s (mruFormed m) h).trans (announce_keeps _ _)
  unfold formSpeed; split
  · exact (formed.trans (drawFree_keeps _)).trans (detect_keeps _ _ _ _ _)
  · exact formed

theorem judgeRest_keeps : Keeps s (judgeRest s) :=
  (mruWith_keeps s { s.mru with settle := settleAfter s.store s.mru } rfl).trans (setAtRest_keeps _ _)

theorem mruRecompute_keeps (m : Mru) (h : m.atRest = s.mru.atRest) : Keeps s (mruRecompute m s) :=
  (formSpeed_keeps s m h).trans (judgeRest_keeps _)

theorem settleExpiry_keeps : Keeps s (settleExpiry s) := by
  unfold settleExpiry; split
  · exact (mruWith_keeps s { s.mru with settle := none } rfl).trans (setAtRest_keeps _ _)
  · exact .refl s

theorem jointSample_keeps (th : Int) : Keeps s (jointSample th s) :=
  (mruWith_keeps s (mruSampled s.store th s.mru) rfl).trans (announce_keeps _ _)

theorem emptyHistory_keeps : Keeps s (emptyHistory s) where
  __ := Keeps.refl s

theorem mruStandby_keeps : Keeps s (mruStandby s) where
  __ := Keeps.refl s

theorem brakeEnd_keeps (x : Axle) (n : Nat) (v : Option Int) : Keeps s (brakeEnd x n v s) := mruRecompute_keeps s _ rfl

/-! ICT -/

theorem judgeEntry_keeps (e : Entry) : Keeps s (judgeEntry e s) := by
  unfold judgeEntry; split
  · exact .refl s
  · split
    · exact Keeps.after (placeClaims_keeps _ _ _) { Keeps.refl _ with }
    · exact Keeps.after (withdrawClaims_keeps _ _ _) { Keeps.refl _ with }

theorem judgeEntries_keeps (es : List Entry) : Keeps s (judgeEntries es s) :=
  judgeEntries_induction (Keeps s) (fun _ _ h => h.andThen fun u => judgeEntry_keeps u _) es s (.refl s)

theorem ictWith_keeps (i : Ict) (q : Watched) : Keeps s (judgeWatching q { s with ict := i }) :=
  Keeps.after (judgeEntries_keeps _ _) { Keeps.refl _ with }

theorem ictMode_keeps (m : Mode) : Keeps s (ictMode m s) := Keeps.after (judgeEntries_keeps _ _) { Keeps.refl _ with }

/-! LV -/

/-- LV's half of the vote law (R32). -/
def LvOk (l : Lv) : Prop :=
  ∀ x, (l.lanes.get x).freshness = .fresh →
    (l.lanes.get x).stored.demand ≤ l.voted.demand ∧
      ((l.lanes.get x).stored.emergency = true → l.voted.emergency = true)

theorem lvWith_keeps (l : Lv) (h : LvOk s.lv → LvOk l) : Keeps s { s with lv := l } where
  __ := Keeps.refl s
  vote := h

/-- No lane is FRESH. -/
theorem lvOk_of_none {l : Lv} (h : ∀ x, (l.lanes.get x).freshness ≠ .fresh) : LvOk l := fun x hx => absurd hx (h x)

theorem lvMode_keeps (prev new : Mode) : Keeps s (lvMode prev new s) := by
  unfold lvMode; split_ifs
  · exact lvWith_keeps s _ fun _ => lvOk_of_none fun x => by cases x <;> exact nofun
  · exact lvWith_keeps s _ fun _ => lvOk_of_none fun x => by cases x <;> exact nofun
  · exact .refl s

theorem lane_cases (x y : Lane) : y = x ∨ y = otherLane x := by cases x <;> cases y <;> simp [otherLane]

theorem otherLane_ne (x : Lane) : otherLane x ≠ x := by cases x <;> decide

/-- The vote at lane `x` is no lower than any FRESH lane: of two it takes the larger demand and either flag, and of one that
lane's values (R31, R32). -/
theorem lvOk_voted (st : Store) (x : Lane) (l : Lv) : LvOk (lvVoted st x l) := by
  intro y hy
  change (l.lanes.get y).freshness = .fresh at hy
  change (l.lanes.get y).stored.demand ≤ (votedAfter st l x).demand ∧
    ((l.lanes.get y).stored.emergency = true → (votedAfter st l x).emergency = true)
  unfold votedAfter twoLane
  by_cases two : (l.lanes.get (otherLane x)).freshness = .fresh
  · rw [if_pos (by simp [two])]
    rcases lane_cases x y with rfl | rfl
    · exact ⟨le_max_left _ _, fun h => by simp [votedTwo, h]⟩
    · exact ⟨le_max_right _ _, fun h => by simp [votedTwo, h]⟩
  · rw [if_neg (by simpa using two)]
    rcases lane_cases x y with rfl | rfl
    · exact ⟨le_rfl, id⟩
    · exact absurd hy two

/-- A lane that is no longer FRESH asks nothing of the vote. -/
theorem lvOk_setLane {l l' : Lv} {x : Lane} {f : Freshness} {t : LaneTimer} (hf : f ≠ .fresh)
    (hl : l'.lanes = (setLane x f t l).lanes) (hv : l'.voted = l.voted) (h : LvOk l) : LvOk l' := by
  intro y hy
  have get : l'.lanes.get y = if y = x then { l.lanes.get x with freshness := f, timer := t } else l.lanes.get y := by
    rw [hl]; exact PerLane_get_set _ _ _ _
  rw [hv]
  rw [get] at hy ⊢
  split at hy
  · exact absurd hy hf
  · rename_i ne; rw [if_neg ne]; exact h y hy

theorem raiseDisagree_keeps (x : Lane) (sp : LaneSetpoint) (n : Nat) : Keeps s (raiseDisagree x sp n s) := by
  unfold raiseDisagree; split
  · exact .refl s
  · exact detect_keeps _ _ _ _ _

theorem takeSetpoint_keeps (x : Lane) (sp : LaneSetpoint) : Keeps s (takeSetpoint x sp s) :=
  ((lvWith_keeps s _ fun _ => lvOk_voted s.store x (lvStored s.store x sp s.lv)).trans (raiseDisagree_keeps _ x sp _)).trans
    (announce_keeps _ _)

theorem stage1Expiry_keeps (x : Lane) : Keeps s (stage1Expiry x s) := by
  unfold stage1Expiry; split
  · exact (lvWith_keeps s { setLane x .stale (.stage2 s.store.tGrace) s.lv with basis := basisAfterStale s.lv x }
      (lvOk_setLane (f := .stale) (by decide) rfl rfl)).trans (detect_keeps _ _ _ _ _)
  · exact .refl s

theorem raiseBothLost_keeps (x : Lane) : Keeps s (raiseBothLost x s) := by
  unfold raiseBothLost; split
  · exact detect_keeps _ _ _ _ _
  · exact .refl s

theorem stage2Expiry_keeps (x : Lane) : Keeps s (stage2Expiry x s) := by
  unfold stage2Expiry; split
  · exact ((lvWith_keeps s (setLane x .lost .stopped s.lv) (lvOk_setLane (f := .lost) (by decide) rfl rfl)).trans
      (detect_keeps _ _ _ _ _)).trans (raiseBothLost_keeps _ x)
  · exact .refl s

/-! FLC -/

theorem withFlc_keeps (f : Flc) : Keeps s (withFlc f s) where
  __ := Keeps.refl s

theorem setNode_keeps (n : Node) (r : NodeRec) : Keeps s (setNode n r s) where
  __ := Keeps.refl s

theorem pollNext_keeps : Keeps s (pollNext s) := by
  unfold pollNext; split
  · exact .refl s
  · exact (sjuPolled_keeps s _).trans { Keeps.refl _ with }

theorem advance_keeps : Keeps s (advance s) := by
  unfold advance; split
  · exact .refl s
  · exact .refl s
  · split
    · split
      · unfold endRound; split
        · exact (withFlc_keeps s _).trans (pollNext_keeps _)
        · exact withFlc_keeps s _
      · exact pollNext_keeps _
    · exact .refl s
  · exact withFlc_keeps s _
  · exact (withFlc_keeps s _).trans (pollNext_keeps _)
  · exact withFlc_keeps s _

theorem cycleExpiry_keeps : Keeps s (cycleExpiry s) := by
  unfold cycleExpiry; split
  · exact .refl s
  · split <;> exact withFlc_keeps s _

theorem raiseTestFail_keeps : Keeps s (raiseTestFail s) := by
  unfold raiseTestFail; split
  · exact detect_keeps _ _ _ _ _
  · exact .refl s

theorem finishTest_keeps (r : TestResult) : Keeps s (finishTest r s) :=
  ((withFlc_keeps s _).trans (raiseTestFail_keeps _)).trans (offer_keeps _ _)

theorem echoEnd_keeps (r m : Bool) : Keeps s (echoEnd r m s) := by
  unfold echoEnd; simp only; split
  · exact (withFlc_keeps s _).trans (finishTest_keeps _ _)
  · exact withFlc_keeps s _

theorem judgeEcho_keeps (t : Txn) (r m : Bool) : Keeps s (judgeEcho t r m s) := by
  unfold judgeEcho; split
  · exact echoEnd_keeps _ _ _
  · exact .refl s

theorem takeCode_keeps (t : Txn) (code : Nat) (m1 m2 : Word) : Keeps s (takeCode t code m1 m2 s) := by
  unfold takeCode; split
  · exact .refl s
  · exact (withFlc_keeps s _).trans (detect_keeps _ _ _ _ _)

theorem tellFollow_keeps (n : Node) : Keeps s (tellFollow n s) := by
  unfold tellFollow; split
  · exact announce_keeps _ _
  · exact .refl s

theorem followMonitor_keeps (t : Txn) (tol a : Int) (item : List Byte) : Keeps s (followMonitor t tol a item s) := by
  unfold followMonitor; simp only; split
  · exact ((withFlc_keeps s _).trans (detect_keeps _ _ _ _ _)).trans (tellFollow_keeps _ _)
  · exact withFlc_keeps s _

theorem keepMeasures_keeps (n : Node) (a b : Int) : Keeps s (keepMeasures n a b s) := withFlc_keeps s _

theorem handOn_keeps (t : Txn) (code : Nat) (m1 m2 : Word) : Keeps s (handOn t code m1 m2 s) := by
  unfold handOn; split
  · exact ((keepMeasures_keeps s _ _ _).trans (brakeEnd_keeps _ _ _ _)).trans (followMonitor_keeps _ _ _ _ _)
  · exact (keepMeasures_keeps s _ _ _).trans (followMonitor_keeps _ _ _ _ _)
  · exact (keepMeasures_keeps s _ _ _).trans (jointSample_keeps _ _)
  · exact (keepMeasures_keeps s _ _ _).trans (levelResponse_keeps _ _ _ _)

theorem noMeasure_keeps (n : Node) (k : CmdKind) : Keeps s (noMeasure n k s) := by
  unfold noMeasure; split
  · exact brakeEnd_keeps _ _ _ _
  · exact emptyHistory_keeps _
  · exact .refl s

theorem goodResponse_keeps (t : Txn) (code : Nat) (m1 m2 : Word) : Keeps s (goodResponse t code m1 m2 s) := by
  have taken := (setNode_keeps s t.node (nodeGood s.mode (s.flc.nodes.get t.node))).andThen
    fun u => takeCode_keeps u t code m1 m2
  unfold goodResponse; simp only; split
  · exact (taken.trans (echoEnd_keeps _ _ _)).trans (noMeasure_keeps _ _ _)
  · unfold setResponse; split
    · exact taken.trans (noMeasure_keeps _ _ _)
    · exact taken.trans (handOn_keeps _ _ _ _ _)

theorem raiseCapacity_keeps (n : Node) : Keeps s (raiseCapacity n s) := by
  unfold raiseCapacity; split
  · split
    · exact detect_keeps _ _ _ _ _
    · exact .refl s
  · exact .refl s

theorem becomeLost_keeps (t : Txn) (k : MissKind) : Keeps s (becomeLost t k s) :=
  (detect_keeps s _ _ _ _).trans (raiseCapacity_keeps _ _)

theorem missResponse_keeps (t : Txn) (k : MissKind) : Keeps s (missResponse t k s) := by
  have missed := (setNode_keeps s t.node (nodeMissed s.store.missLimit (s.flc.nodes.get t.node))).andThen
    fun u => detect_keeps u .fieldMiss (.node t.node) (some t.node.channel) (commandItem t (missCode k))
  unfold missResponse; simp only; split
  · exact ((missed.trans (becomeLost_keeps _ _ _)).trans (judgeEcho_keeps _ _ _ _)).trans (noMeasure_keeps _ _ _)
  · exact (missed.trans (judgeEcho_keeps _ _ _ _)).trans (noMeasure_keeps _ _ _)

theorem afterTxn_keeps : Keeps s (afterTxn s) := by
  unfold afterTxn; split
  · exact finishTest_keeps _ _
  · exact .refl s

theorem fieldResponse_keeps (code : Nat) (m1 m2 : Word) : Keeps s (fieldResponse code m1 m2 s) := by
  unfold fieldResponse; split
  · exact .refl s
  · split_ifs
    · exact .refl s
    · exact ((withFlc_keeps s _).trans (goodResponse_keeps _ _ _ _ _)).trans (afterTxn_keeps _)
    · exact ((withFlc_keeps s _).trans (judgeEcho_keeps _ _ _ _)).trans (afterTxn_keeps _)

theorem windowEnd_keeps (k : MissKind) : Keeps s (windowEnd k s) := by
  unfold windowEnd; split
  · exact .refl s
  · split_ifs
    · exact .refl s
    · exact ((withFlc_keeps s _).trans (missResponse_keeps _ _ _)).trans (afterTxn_keeps _)
    · exact ((withFlc_keeps s _).trans (judgeEcho_keeps _ _ _ _)).trans (afterTxn_keeps _)

theorem shutdownAck_keeps (code : Fin 8) : Keeps s (shutdownAck code s) := by
  unfold shutdownAck; split
  · exact .refl s
  · split_ifs
    · exact .refl s
    · exact withFlc_keeps s _
    · exact withFlc_keeps s _

theorem ackExpiry_keeps (k : MissKind) : Keeps s (ackExpiry k s) := by
  unfold ackExpiry; split
  · exact .refl s
  · split
    · exact .refl s
    · split
      · exact ((withFlc_keeps s _).trans (withFlc_keeps _ _)).trans (detect_keeps _ _ _ _ _)
      · exact (withFlc_keeps s _).trans (detect_keeps _ _ _ _ _)

theorem flcMode_keeps (prev new : Mode) : Keeps s (flcMode prev new s) := by
  unfold flcMode; split_ifs
  · exact withFlc_keeps s _
  · exact withFlc_keeps s _
  · exact withFlc_keeps s _
  · unfold flcLeaveService; split_ifs
    · exact withFlc_keeps s _
    · exact finishTest_keeps _ _
    · exact .refl s
  · exact .refl s

theorem readmit_keeps : Keeps s (readmit s) := by
  have one : ∀ n u, Keeps u (readmitNode n u) := fun n u => by
    unfold readmitNode; split
    · exact setNode_keeps _ _ _
    · exact .refl u
  have all : ∀ (ns : List Node) u, Keeps u (ns.foldl (fun s n => readmitNode n s) u) := by
    intro ns
    induction ns with
    | nil => exact .refl
    | cons n ns ih => exact fun u => (one n u).trans (ih _)
  exact all Node.all s

theorem refitNode_keeps (n : Node) : Keeps s (refitNode n s) := (withFlc_keeps s _).trans (setNode_keeps _ _ _)

/-! MC's claims -/

theorem mcMode_keeps (new : Mode) : Keeps s (mcMode new s) := by
  unfold mcMode; split
  · exact placeClaims_keeps _ _ _
  · exact .refl s

theorem mcAtRest_keeps (b : Bool) : Keeps s (mcAtRest b s) := by
  have copied : Keeps s { s with mc := { s.mc with atRest := b } } := { Keeps.refl _ with }
  unfold mcAtRest; simp only; split_ifs
  · exact copied.trans (withdrawClaims_keeps _ _ _)
  · exact copied.trans (placeClaims_keeps _ _ _)
  · exact copied

/-! The taking of announcements -/

theorem takeChannel_keeps (c : Channel) (h : Option Source) (sp : Setpoint) : Keeps s (takeChannel c h sp s) := by
  unfold takeChannel; split
  · exact sjuEffective_keeps _ _
  · exact lkuChannel_keeps _ _ _ _
  · exact dsvChannel_keeps _ _ _
  · exact .refl s

theorem takeNode_keeps (n : Node) (st : NodeState) : Keeps s (takeNode n st s) := by
  unfold takeNode; split
  · exact Keeps.after (mruRecompute_keeps _ _ rfl) (bauNode_keeps _ _ _)
  · exact setCentring_keeps _ _
  · exact .refl s
  · exact setCorner_keeps _ _ _

theorem takeMode_keeps (prev new : Mode) : Keeps s (takeMode prev new s) := by
  have cleared : Keeps s (if clearsLists new then clearLists s else s) := by
    split
    · exact clearLists_keeps s
    · exact .refl s
  have emptied : ∀ u, Keeps u (if new = .standby then mruStandby u else u) := fun u => by
    split
    · exact mruStandby_keeps u
    · exact .refl u
  exact .after (mcMode_keeps _ new) (.after (ictMode_keeps _ new) (.after (formHLane_keeps _ _)
    (.after (sjuMode_keeps _ prev new) (.after (bauMode_keeps _ prev new) (.after (emptied _)
    (.after (flcMode_keeps _ prev new) (.after (lvMode_keeps _ prev new) cleared)))))))

/-- The taking of any announcement. -/
theorem handle_keeps (e : Ev) : Keeps s (handle e s) := by
  cases e with
  | channel c h sp _ => exact takeChannel_keeps _ _ _ _
  | demand d => exact (bauDemand_keeps _ _).trans (ictWith_keeps _ _ _)
  | emerg b => exact (bauEmerg_keeps _ _).trans (ictWith_keeps _ _ _)
  | angle a => exact runSteer_keeps _ _ rfl
  | steerMode m => exact runSteer_keeps _ _ rfl
  | levelMode m => exact formHLane_keeps _ _
  | placeLane => exact placeClaims_keeps _ _ _
  | placeEmerg => exact placeClaims_keeps _ _ _
  | withdrawEmerg => exact withdrawClaims_keeps _ _ _
  | speed v k => exact Keeps.after (formHLane_keeps _ _) (.after (runSteer_keeps _ _ rfl) (ictWith_keeps s _ _))
  | atRest b =>
    exact (((bauAtRest_keeps s b).trans (ictWith_keeps _ _ _)).trans (sjuAtRest_keeps _ b)).trans
      ((lkuAtRest_keeps _ b).trans (mcAtRest_keeps _ b))
  | theta th r v smp => exact sjuTheta_keeps _ _ _ _ _
  | artic a => exact ictWith_keeps _ _ _
  | node n st => exact takeNode_keeps _ _ _
  | kneel k =>
    exact (((bauFloor_keeps s s.bau.doors k).trans (ictWith_keeps _ _ _)).trans (dsvKneel_keeps _ k)).trans
      (mcWith_keeps _ _ rfl rfl)
  | doors d => exact ((bauFloor_keeps s d s.bau.kneel).trans (ictWith_keeps _ _ _)).trans (mcWith_keeps _ _ rfl rfl)
  | mode prev new => exact takeMode_keeps _ _ _
  | followMark b => exact setCentring_keeps _ _

theorem settle_keeps (n : Nat) : Keeps s (settle n s) :=
  settle_induction (Keeps s) (fun e rest t _ h => by
    have waits : Keeps t { t with inFlight := rest } := { Keeps.refl _ with }
    exact (h.trans waits).trans (handle_keeps _ e)) n s (.refl s)

theorem complete_keeps : Keeps s (complete s) := by
  unfold complete
  exact (settle_keeps s settleLimit).trans (advance_keeps _)

theorem sampleContacts_keeps (closed : PerDoor Bool) : Keeps s (sampleContacts closed s) := by
  have all : ∀ (ns : List Door) u,
      Keeps u (ns.foldl (fun s n => settle settleLimit (sampleContact n (closed.get n) s)) u) := by
    intro ns
    induction ns with
    | nil => exact .refl
    | cons n ns ih => exact fun u => ((sampleContact_keeps u n _).trans (settle_keeps _ _)).trans (ih _)
  exact all Door.all s

end Sys2Proof.Machine
end

section

/-! PROOFS. What every command and every step keeps. -/

namespace Sys2Proof.Machine

open Sys2Proof.Safety

/-! What a taken write leaves of the store (R180, R73, R94) -/

/-- A taken write reaches its own item and, for item 26, item 27 (R94). -/
theorem Store.write_other {st st' : Store} (wf : storeWf st.items = true) {n m : Nat} {v0 v1 v2 : Byte}
    (hw : st.write n v0 v1 v2 = some st') (hm : m ≠ n) (pair : n = 26 → m ≠ 27) : st'.get m = st.get m := by
  have put : ∀ v, (st.put n v).get m = st.get m := fun v => by rw [Store.get_put _ _ _ _ wf, if_neg hm]
  unfold Store.write at hw
  split at hw
  · obtain ⟨v, -, rfl⟩ := Option.map_eq_some_iff.1 hw
    exact put v
  · obtain ⟨v, -, rfl⟩ := Option.map_eq_some_iff.1 hw
    unfold Store.bind
    split_ifs with h1 h2 h26 hlt h27 hlt h32 h33
    · exact put _
    · exact put _
    · subst h26; exact put _
    · subst h26; rw [Store.get_put _ _ _ _ (Store.put_wf _ _ _ wf), if_neg (pair rfl)]; exact put _
    · subst h27; exact put _
    · subst h27; exact put _
    · subst h32; exact put _
    · subst h33; exact put _
    · exact put _

/-- A taken write of the steer limit stores it within 20 to 200 (6.1). -/
theorem Store.write_steerLimit {st st' : Store} (wf : storeWf st.items = true) {v0 v1 v2 : Byte}
    (hw : st.write 28 v0 v1 v2 = some st') : 20 ≤ st'.deltaMax ∧ st'.deltaMax ≤ 200 := by
  obtain ⟨v, hv, rfl⟩ := Option.map_eq_some_iff.1 (show (itemStored 28 (writtenValue 28 v0 v1)).map (st.bind 28) = some st' from hw)
  have stored : v = clamp 20 200 (writtenValue 28 v0 v1) := (Option.some.inj hv).symm
  have got : (st.bind 28 v).get 28 = v := by
    rw [show st.bind 28 v = st.put 28 v from rfl, Store.get_put _ _ _ _ wf, if_pos rfl]
  unfold Store.deltaMax
  rw [got, stored]
  exact clamp_between _ _ _ (by norm_num)

/-- The limits of every axle's load in order (R73). -/
def LimitsOrdered (st : Store) : Prop := ∀ x, st.lMin x ≤ st.lMax x

/-- A write of one limit is bound by the other (R73). -/
theorem Store.bind_axle {st : Store} (wf : storeWf st.items = true) (h : LimitsOrdered st) {n : Nat} (v : Int) :
    LimitsOrdered (st.bind n v) := by
  have limits : st.get 2 ≤ st.get 3 ∧ st.get 9 ≤ st.get 10 ∧ st.get 16 ≤ st.get 17 := ⟨h .a, h .b, h .c⟩
  obtain ⟨ha, hb, hc⟩ := limits
  have two : ∀ a x b y m, ((st.put a x).put b y).get m = if m = b then y else if m = a then x else st.get m := by
    intro a x b y m; rw [Store.get_put _ _ _ _ (Store.put_wf _ _ _ wf), Store.get_put _ _ _ _ wf]
  have ordered : ∀ base, base = 0 ∨ base = 7 ∨ base = 14 → (st.bind n v).get (base + 2) ≤ (st.bind n v).get (base + 3) := by
    intro base hbase
    have old : st.get (base + 2) ≤ st.get (base + 3) := by rcases hbase with rfl | rfl | rfl <;> assumption
    unfold Store.bind
    split_ifs with h1 h2 <;> simp only [Store.get_put _ _ _ _ wf, two]
    · by_cases e : n = base + 2
      · subst e; rw [if_pos rfl, if_neg (by omega)]; exact min_le_right _ _
      · rw [if_neg (Ne.symm e), if_neg (by omega)]; exact old
    · by_cases e : n = base + 3
      · subst e; rw [if_pos rfl, if_neg (by omega)]; exact le_max_right _ _
      · rw [if_neg (by omega), if_neg (Ne.symm e)]; exact old
    all_goals split_ifs <;> omega
  intro x
  cases x
  · exact ordered 0 (.inl rfl)
  · exact ordered 7 (.inr (.inl rfl))
  · exact ordered 14 (.inr (.inr rfl))

/-- A taken write leaves the limits in order (R73). -/
theorem Store.write_ordered {st st' : Store} (wf : storeWf st.items = true) {n : Nat} {v0 v1 v2 : Byte}
    (hw : st.write n v0 v1 v2 = some st') (h : LimitsOrdered st) : LimitsOrdered st' := by
  by_cases hk : itemIsKind n = true
  · have large : 80 ≤ n := by unfold itemIsKind at hk; simp at hk; omega
    intro x
    unfold Store.lMin Store.lMax
    rw [Store.write_other wf hw (by cases x <;> simp [axleBase] <;> omega) (by omega),
      Store.write_other wf hw (by cases x <;> simp [axleBase] <;> omega) (by omega)]
    exact h x
  · rw [Store.write, if_neg hk] at hw
    obtain ⟨v, -, rfl⟩ := Option.map_eq_some_iff.1 hw
    exact Store.bind_axle wf h v

/-! A taken write (R180) -/

theorem blockActs_keeps (n : Nat) (old : Store) (s : State) (axle : 21 ≤ n) (limit : n ≠ 28) :
    Keeps s (blockActs n old s) := by
  have cleared : ∀ u, Keeps u (angleCleared u) := fun u => by
    unfold angleCleared; split
    · exact .refl u
    · exact setCentring_keeps _ _
  unfold blockActs
  rw [if_neg (by omega), if_neg limit]
  split_ifs
  · exact sjuWith_keeps s _ rfl
  · exact .refl s
  · exact refitNode_keeps _ _
  · exact .refl s
  · exact .after (cleared _) (.after (emptyHistory_keeps _) (refitNode_keeps s _))
  · exact formHLane_keeps _ _
  · exact .refl s
  · exact dsvFitting_keeps _
  · exact .refl s
  · exact emptyHistory_keeps _
  · exact .refl s

section
variable {n : Nat} {v0 v1 v2 : Byte} {st : Store} {s : State}

/-- A write that changed an axle item's value has BAU take its nominal load (R73). -/
theorem takeWrite_axle (hn : n < 21) : takeWrite n st s =
    if st.get n = s.store.get n then storeTaken st s
    else bauLoad (axleOfItem n) (nominalLoad st (axleOfItem n)) (storeTaken st s) := by
  rw [takeWrite_eq]; exact if_pos hn

/-- A write of the steer limit clamps the value sent (R94). -/
theorem takeWrite_steerLimit : takeWrite 28 st s = steerLimitWritten (storeTaken st s) := rfl

/-- The items of the load limits of an axle are its own. -/
theorem axleOfItem_limits {x : Axle} (hn : n < 21) (h : n = axleBase x + 2 ∨ n = axleBase x + 3) : axleOfItem n = x := by
  unfold axleOfItem
  cases x <;> rcases h with h | h <;> subst h <;> rfl

/-- After a taken write each load estimate lies within its limits: the written axle's is formed anew, and the others' limits
stand (R73, R76). -/
theorem loadsOk_takeWrite (hw : s.store.write n v0 v1 v2 = some st) (h : LoadsOk s) : LoadsOk (takeWrite n st s) := by
  obtain ⟨wf, loads⟩ := h
  have wf' : storeWf st.items = true := Store.write_wf _ _ _ _ _ _ wf hw
  have ordered : LimitsOrdered st := Store.write_ordered wf hw (LoadsIn.ordered loads)
  -- where the write left an axle's limits alone, its load lies within them
  have others : ∀ x, n ≠ axleBase x + 2 → n ≠ axleBase x + 3 → st.lMin x ≤ s.bau.load.get x ∧ s.bau.load.get x ≤ st.lMax x := by
    intro x h2 h3
    unfold Store.lMin Store.lMax
    rw [Store.write_other wf hw h2.symm (by cases x <;> simp [axleBase]),
      Store.write_other wf hw h3.symm (by cases x <;> simp [axleBase])]
    exact loads x
  by_cases hn : n < 21
  · rw [takeWrite_axle hn]
    split
    · rename_i same
      refine ⟨wf', fun x => ?_⟩
      have get : ∀ m, m < 21 → st.get m = s.store.get m := fun m hm => by
        by_cases e : m = n
        · rw [e]; exact same
        · exact Store.write_other wf hw e (by omega)
      change st.lMin x ≤ s.bau.load.get x ∧ s.bau.load.get x ≤ st.lMax x
      unfold Store.lMin Store.lMax
      rw [get _ (by cases x <;> decide), get _ (by cases x <;> decide)]
      exact loads x
    · -- the written axle's limits may have passed its load, which BAU replaces at once
      have nominal := nominalLoad_in (ordered (axleOfItem n))
      unfold bauLoad; split
      · rename_i held
        refine ⟨wf', fun x => ?_⟩
        change st.lMin x ≤ s.bau.load.get x ∧ s.bau.load.get x ≤ st.lMax x
        by_cases e : x = axleOfItem n
        · rw [show s.bau.load.get x = nominalLoad st (axleOfItem n) from e ▸ held, e]; exact nominal
        · exact others x (fun h => e (axleOfItem_limits hn (.inl h)).symm) (fun h => e (axleOfItem_limits hn (.inr h)).symm)
      · refine (bauRecompute_keeps _).loads ⟨wf', fun x => ?_⟩
        change st.lMin x ≤ (s.bau.load.set (axleOfItem n) (nominalLoad st (axleOfItem n))).get x ∧
          (s.bau.load.set (axleOfItem n) (nominalLoad st (axleOfItem n))).get x ≤ st.lMax x
        rw [PerAxle_get_set]
        split
        · rename_i e; rw [e]; exact nominal
        · rename_i e
          exact others x (fun h => e (axleOfItem_limits hn (.inl h)).symm) (fun h => e (axleOfItem_limits hn (.inr h)).symm)
  · have taken : LoadsOk (storeTaken st s) :=
      ⟨wf', fun x => others x (by cases x <;> simp [axleBase] <;> omega) (by cases x <;> simp [axleBase] <;> omega)⟩
    by_cases limit : n = 28
    · subst limit; exact taken
    · rw [takeWrite_eq]; exact (blockActs_keeps n s.store _ (by omega) limit).loads taken

/-- After a taken write the value sent lies within the steer limit (R94, R100). -/
theorem sentOk_takeWrite (hw : s.store.write n v0 v1 v2 = some st) (h : SentOk s) : SentOk (takeWrite n st s) := by
  obtain ⟨wf, limit, sent⟩ := h
  have wf' : storeWf st.items = true := Store.write_wf _ _ _ _ _ _ wf hw
  by_cases hn : n = 28
  · subst hn
    obtain ⟨low, high⟩ := Store.write_steerLimit wf hw
    rw [takeWrite_steerLimit]
    exact ⟨wf', ⟨low, high⟩, clamp_between _ _ _ (by change -st.deltaMax ≤ st.deltaMax; omega)⟩
  · have same : st.deltaMax = s.store.deltaMax := Store.write_other wf hw (Ne.symm hn) (by omega)
    have taken : SentOk (storeTaken st s) := by
      refine ⟨wf', ?_⟩
      change (20 ≤ st.deltaMax ∧ st.deltaMax ≤ 200) ∧ -st.deltaMax ≤ s.sju.lastSent ∧ s.sju.lastSent ≤ st.deltaMax
      rw [same]; exact ⟨limit, sent⟩
    by_cases axle : n < 21
    · rw [takeWrite_axle axle]
      split
      · exact taken
      · unfold bauLoad; split
        · exact taken
        · exact (bauRecompute_keeps _).sent taken
    · rw [takeWrite_eq]; exact (blockActs_keeps n s.store _ (by omega) hn).sent taken

/-- A taken write keeps every law. -/
theorem takeWrite_keeps (hm : s.mode = .config) (hw : s.store.write n v0 v1 v2 = some st) : Keeps s (takeWrite n st s) := by
  -- but for the two laws that the store's limits stand in, the write and what its block does are kept apart
  have taken : ∀ P : State → State → Prop, (∀ t, Keeps (storeTaken st s) t → P (storeTaken st s) t) →
      (∀ j, j.lastSent = clamp (-st.deltaMax) st.deltaMax s.sju.lastSent → P (storeTaken st s) { storeTaken st s with sju := j }) →
      (∀ b, P (storeTaken st s) (bauRecompute { storeTaken st s with bau := b })) →
      P (storeTaken st s) (takeWrite n st s) := by
    intro P kept clamped recomputed
    by_cases axle : n < 21
    · rw [takeWrite_axle axle]
      split
      · exact kept _ (.refl _)
      · unfold bauLoad; split
        · exact kept _ (.refl _)
        · exact recomputed _
    · by_cases limit : n = 28
      · subst limit; exact clamped _ rfl
      · rw [takeWrite_eq]; exact kept _ (blockActs_keeps n s.store _ (by omega) limit)
  exact {
    pending := taken (fun u t => t.pending = u.pending) (fun _ h => h.pending) (fun _ _ => rfl)
      (fun b => (bauRecompute_keeps _).pending)
    queues := taken (fun u t => QueuesOk u → QueuesOk t) (fun _ h => h.queues) (fun _ _ h => h)
      (fun b => (bauRecompute_keeps { storeTaken st s with bau := b }).queues)
    outputs := taken (fun u t => OutputsOk u → OutputsOk t) (fun _ h => h.outputs) (fun _ _ h => h)
      (fun b => (bauRecompute_keeps { storeTaken st s with bau := b }).outputs)
    vote := taken (fun u t => VoteOk u → VoteOk t) (fun _ h => h.vote) (fun _ _ h => h)
      (fun b => (bauRecompute_keeps { storeTaken st s with bau := b }).vote)
    fatal := fun _ => taken (fun u t => FatalOk u → FatalOk t) (fun _ h => h.fatal) (fun _ _ h => h)
      (fun b => (bauRecompute_keeps { storeTaken st s with bau := b }).fatal)
      (fatalOk_of_mode (by change s.mode ≠ .run ∧ s.mode ≠ .degraded; rw [hm]; decide))
    sent := sentOk_takeWrite hw
    loads := loadsOk_takeWrite hw }

end

end Sys2Proof.Machine
end

section

/-! PROOFS. The laws that every step keeps (95_what_each_step_holds.md), and the queue that no command touches. -/

namespace Sys2Proof.Machine

open Sys2Proof.Safety

variable (s : State)

/-! Resets and the tick -/

theorem queuesOk_mpiReset {s t : State} (h : t.mpi = mpiReset s.mpi) : QueuesOk t := fun p => by
  rw [h, mpiReset, PerPort_get_of]; exact ⟨by simp [portReset], .nil⟩

theorem warmReset_keeps (c : Cause) : Keeps s (warmReset c s) := by
  rw [warmReset_eq]
  refine Keeps.after (pollNext_keeps _) { Keeps.refl s with
    queues := fun _ => queuesOk_mpiReset (s := s) rfl
    outputs := fun _ _ n => PerDoor_get_of _ n
    vote := fun _ => lvOk_of_none (l := lvReset) fun x => by cases x <;> exact nofun
    fatal := fun _ => fatalOk_of_mode (show Mode.config ≠ .run ∧ Mode.config ≠ .degraded by decide)
    loads := fun h => ⟨h.1, loadsIn_nominal (LoadsIn.ordered h.2)⟩ }

theorem limitsOrdered_default : LimitsOrdered Store.default := fun x => by cases x <;> decide

theorem sentOk_reset : SentOk State.reset := ⟨rfl, by decide, by decide, by decide⟩

theorem loadsOk_reset : LoadsOk State.reset := ⟨rfl, loadsIn_nominal limitsOrdered_default⟩

theorem powerOn_keeps : Keeps s (powerOn s) where
  __ := Keeps.refl s
  queues := fun _ => queuesOk_mpiReset (s := s) rfl
  outputs := fun _ _ n => PerDoor_get_of _ n
  vote := fun _ => lvOk_of_none (l := lvReset) fun x => by cases x <;> exact nofun
  fatal := fun _ => fatalOk_of_mode (show Mode.powerup ≠ .run ∧ Mode.powerup ≠ .degraded by decide)
  sent := fun _ => sentOk_reset
  loads := fun _ => loadsOk_reset

/-- A tick moves timers and ages alone. -/
theorem tickTimers_keeps : Keeps s (tickTimers s) where
  __ := Keeps.refl s
  vote := fun h x => by
    change (((PerLane.of fun l => tickLane (s.lv.lanes.get l)).get x).freshness = .fresh → _)
    have lane : (tickTimers s).lv.lanes.get x = tickLane (s.lv.lanes.get x) := PerLane_get_of _ x
    rw [PerLane_get_of, lane]
    exact h x

/-! Mode changes at a request -/

/-- A change into a mode other than RUN and DEGRADED. -/
theorem setMode_keeps_of {m : Mode} (h : m ≠ .run ∧ m ≠ .degraded) : Keeps s (setMode m s) :=
  setMode_keeps s m fun _ => fatalOk_of_mode h

theorem mem_faultKinds (k : FaultKind) : k ∈ FaultKind.all := by cases k <;> decide

/-- A passing validation finds no FATAL status (R183, check 1). -/
theorem no_fatal_of_validation {s : State} (h : validation s = none) (k : FaultKind) (hk : s.fu.has k = true) :
    s.store.severity k ≠ .fatal := by
  have none_standing : fatalStanding s = none := by
    unfold validation at h
    split at h
    case h_1 => cases h
    all_goals assumption
  have := List.find?_eq_none.1 none_standing k (mem_faultKinds k)
  intro fatal
  simp [hk, fatal] at this

theorem passRun_keeps (h : validation s = none) : Keeps s (passRun s) :=
  (mcWith_keeps s { s.mc with ready := ⟨none, none⟩, locked := true } rfl rfl).trans
    (setMode_keeps _ .run fun _ _ k hk => no_fatal_of_validation h k hk)

/-- A RECOVER whose conditions are met finds no uncorrectable status (R179, condition 3). -/
theorem no_fatal_of_recover {s : State} (h : recoverUnmet s = none) (k : FaultKind) (hk : s.fu.has k = true) :
    s.store.severity k ≠ .fatal := by
  have clear : classSet s.store s.fu false = false := by
    unfold recoverUnmet at h
    split_ifs at h with h1 h2 h3
    simpa using h3
  intro fatal
  have set : classSet s.store s.fu false = true :=
    List.any_eq_true.2 ⟨k, mem_faultKinds k, by simp [hk, isCorrectable, fatal]⟩
  exact Bool.false_ne_true (clear.symm.trans set)

/-! Requests -/

/-- A request keeps what its owner's part keeps. -/
theorem request_keeps (p : Port) (r k : Byte) (ports : Port → Bool) (owner : State → State × Option Reply)
    (h : ∀ t, Keeps t (owner t).1) : Keeps s (request p r k ports owner s) := by
  have closed := closeTransfer_keeps s p
  rcases request_cases s p r k ports owner with e | ⟨rep, e⟩ | e <;> rw [e]
  · exact .refl s
  · exact closed.trans (answer_keeps _ _ _ _)
  · have part := closed.trans (h _)
    cases eq : owner (closeTransfer p s) with
    | mk t rep =>
      rw [eq] at part
      cases rep with
      | none => exact part
      | some rep => exact part.trans (answer_keeps _ _ _ _)

theorem ownReadNotice_keeps (p : Port) : Keeps s (ownReadNotice p s).1 := by
  unfold ownReadNotice; split
  · exact .refl s
  · exact { Keeps.refl s with queues := queuesOk_set rfl (queueOk_popNotice _) }

theorem ownSetpoint_keeps (x : Lane) (sp : LaneSetpoint) : Keeps s (ownSetpoint x sp s).1 := by
  unfold ownSetpoint; split
  · exact (takeSetpoint_keeps s x sp).trans (complete_keeps _)
  · exact .refl s

theorem ownConfigWrite_keeps (item v0 v1 v2 : Byte) : Keeps s (ownConfigWrite item v0 v1 v2 s).1 := by
  unfold ownConfigWrite; split_ifs with hm hi hl
  · exact .refl s
  · exact .refl s
  · exact .refl s
  · split
    · exact .refl s
    · rename_i st hw
      exact (takeWrite_keeps (not_not.1 hm) hw).trans (complete_keeps _)

theorem ownEnterRun_keeps (x : Lane) (d : Word) : Keeps s (ownEnterRun x d s).1 := by
  unfold ownEnterRun; split_ifs
  · unfold matchRun; split
    · exact mcWith_keeps s _ rfl rfl
    · split
      · exact mcWith_keeps s _ rfl rfl
      · rename_i valid; exact (passRun_keeps s valid).trans (complete_keeps _)
  · exact .refl s
  · exact .refl s

theorem requestStandby_keeps (x : Lane) : Keeps s (requestStandby x s).1 := by
  unfold requestStandby; split_ifs
  · exact mcWith_keeps s _ rfl rfl
  · exact ((mcWith_keeps s { s.mc with standbyWin := none } rfl rfl).trans
      (setMode_keeps_of _ (by decide))).trans (complete_keeps _)
  · exact mcWith_keeps s _ rfl rfl

theorem ownModeRequest_keeps (x : Lane) (code : Byte) : Keeps s (ownModeRequest x code s).1 := by
  unfold ownModeRequest; split
  case h_6 =>
    split_ifs
    · exact .refl s
    · exact (setMode_keeps_of s (by decide)).trans (complete_keeps _)
    · exact .refl s
  case h_7 =>
    split_ifs
    · exact .refl s
    · exact (setMode_keeps_of s (by decide)).trans (complete_keeps _)
    · exact .refl s
  case h_8 =>
    split_ifs
    · exact .refl s
    · exact requestStandby_keeps s x
    · exact .refl s
  all_goals exact .refl s

theorem recoverJudged_keeps : Keeps s (recoverJudged s) := by
  unfold recoverJudged
  exact (readmit_keeps s).trans (settle_keeps _ settleLimit)

theorem ownRecover_keeps : Keeps s (ownRecover s).1 := by
  have judged := recoverJudged_keeps s
  unfold ownRecover
  generalize recoverJudged s = r at judged
  split
  · exact .refl s
  · split
    · exact judged.trans (complete_keeps r)
    · rename_i met
      have run : Keeps r (setMode .run r) := setMode_keeps r .run fun _ _ k hk => no_fatal_of_recover met k hk
      exact (judged.trans run).trans (complete_keeps _)

/-- FU after an acknowledge: no status changes (R169). -/
theorem fuAcked_keeps : Keeps s { s with fu := fuAcked s.fu } where
  __ := Keeps.refl s

/-- FU after a clearing: no status is set (R167). -/
theorem fuCleared_keeps (ks : BitVec 24) : Keeps s { s with fu := fuCleared s.store ks s.fu } where
  __ := Keeps.refl s
  fatal := fun h hm k hk => h hm k (by
    have bits : (s.fu.status &&& ~~~ ks).getLsbD k.no = true := hk
    rw [BitVec.getLsbD_and, Bool.and_eq_true] at bits
    exact bits.1)

theorem ownClearFault_keeps (ks : BitVec 24) : Keeps s (ownClearFault ks s).1 := by
  unfold ownClearFault; split_ifs
  · exact .refl s
  · exact .refl s
  · exact .after (complete_keeps _) (.after (announce_keeps _ _) (fuCleared_keeps s ks))

theorem ownWarmReset_keeps (x : Lane) : Keeps s (ownWarmReset x s).1 := by
  unfold ownWarmReset; split_ifs
  · exact mcWith_keeps s _ rfl rfl
  · exact warmReset_keeps s _
  · exact mcWith_keeps s _ rfl rfl

theorem ownTestField_keeps (n : Byte) (w : Word) (c : Byte) : Keeps s (ownTestField n w c s).1 := by
  unfold ownTestField; split_ifs
  · exact .refl s
  · exact .refl s
  · split
    · exact .refl s
    · exact withFlc_keeps s _

theorem doorStatusTaken_keeps (r : PerDoor Byte) : Keeps s (doorStatusTaken r s) := formDoors_keeps s _ rfl

theorem ownDoorStatus_keeps (r : PerDoor Byte) : Keeps s (ownDoorStatus r s).1 := by
  unfold ownDoorStatus
  exact (doorStatusTaken_keeps s r).trans (complete_keeps _)

theorem ownDoor_keeps (door : Byte) (act : Door → State → State) (h : ∀ n t, Keeps t (act n t)) :
    Keeps s (ownDoor door act s).1 := by
  unfold ownDoor; split_ifs
  · exact .refl s
  · split
    · exact .refl s
    · exact (h _ s).trans (complete_keeps _)

theorem ownOperating_keeps (data : State → List Byte) (act : State → State) (h : ∀ t, Keeps t (act t)) :
    Keeps s (ownOperating data act s).1 := by
  unfold ownOperating; split_ifs
  · exact .refl s
  · exact (h s).trans (complete_keeps _)

/-! Expiries -/

theorem holdExpiry_keeps (c : Channel) (src : Source) : Keeps s (holdExpiry c src s) := by
  have noticed : Keeps s { s with mpi := offerMany s.store (expiredNotices c src) s.mpi } :=
    { Keeps.refl s with queues := queuesOk_offerMany (expiredNotices c src) rfl }
  unfold holdExpiry; split
  · exact noticed.trans (withdrawClaim_keeps _ _ _)
  · exact .refl s

theorem markLapse_keeps (l : Lane) : Keeps s (markLapse l s) := by
  unfold markLapse; split
  · exact (mcWith_keeps s { s.mc with ready := s.mc.ready.set l none } rfl rfl).trans (offer_keeps _ _)
  · exact .refl s

theorem enterConfig_keeps : Keeps s (enterConfig s) where
  __ := Keeps.refl s
  fatal := fun _ => fatalOk_of_mode (show Mode.config ≠ .run ∧ Mode.config ≠ .degraded by decide)

/-! Commands and steps -/

/-- A chain of operations that a completed step ends. -/
theorem Keeps.completed {s t : State} (h : Keeps s t) : Keeps s (complete t) := h.trans (complete_keeps t)

/-- What every command that goes on keeps. -/
theorem exec_keeps {c : Instr} {s t : State} (h : exec c s = .next t) : Keeps s t := by
  have ret : ∀ {u}, goes u = .next t → Keeps s u → Keeps s t := fun e hu => by cases e; exact hu
  cases c with
  | nop => exact ret h (request_keeps _ _ _ _ _ _ fun t => .refl t)
  | readNotice p => exact ret h (request_keeps _ _ _ _ _ _ fun t => ownReadNotice_keeps t p)
  | readClaim => exact ret h (request_keeps _ _ _ _ _ _ fun t => .refl t)
  | readState => exact ret h (request_keeps _ _ _ _ _ _ drawFree_keeps)
  | setpoint => exact ret h (request_keeps _ _ _ _ _ _ fun t => ownSetpoint_keeps t _ _)
  | configWrite => exact ret h (request_keeps _ _ _ _ _ _ fun t => ownConfigWrite_keeps t _ _ _ _)
  | configRead => exact ret h (request_keeps _ _ _ _ _ _ fun t => .refl t)
  | enterRun => exact ret h (request_keeps _ _ _ _ _ _ fun t => ownEnterRun_keeps t _ _)
  | modeRequest => exact ret h (request_keeps _ _ _ _ _ _ fun t => ownModeRequest_keeps t _ _)
  | recover => exact ret h (request_keeps _ _ _ _ _ _ ownRecover_keeps)
  | ackCapture => exact ret h (request_keeps _ _ _ _ _ _ fuAcked_keeps)
  | readCapture => exact ret h (request_keeps _ _ _ _ _ _ drawFree_keeps)
  | readFaults => exact ret h (request_keeps _ _ _ _ _ _ fun t => .refl t)
  | clearFault => exact ret h (request_keeps _ _ _ _ _ _ fun t => ownClearFault_keeps t _)
  | warmReset => exact ret h (request_keeps _ _ _ _ _ _ fun t => ownWarmReset_keeps t _)
  | testField => exact ret h (request_keeps _ _ _ _ _ _ fun t => ownTestField_keeps t _ _ _)
  | doorStatus => exact ret h (request_keeps _ _ _ _ _ _ fun t => ownDoorStatus_keeps t _)
  | doorOpen =>
    exact ret h (request_keeps _ _ _ _ _ _ fun t => ownDoor_keeps t _ _ fun n u => placeClaim_keeps u _ _)
  | doorClose =>
    exact ret h (request_keeps _ _ _ _ _ _ fun t => ownDoor_keeps t _ _ fun n u => withdrawClaim_keeps u _ _)
  | haltOn =>
    exact ret h (request_keeps _ _ _ _ _ _ fun t => ownOperating_keeps t _ _ fun u => placeClaims_keeps u _ _)
  | haltOff =>
    exact ret h (request_keeps _ _ _ _ _ _ fun t => ownOperating_keeps t _ _ fun u => withdrawClaims_keeps u _ _)
  | kneelOn =>
    exact ret h (request_keeps _ _ _ _ _ _ fun t => ownOperating_keeps t _ _ fun u => placeClaims_keeps u _ _)
  | kneelOff =>
    exact ret h (request_keeps _ _ _ _ _ _ fun t => ownOperating_keeps t _ _ fun u => withdrawClaims_keeps u _ _)
  | badFrame p clocks first =>
    simp only [exec, execBadFrame] at h; split at h
    · exact ret h (.refl s)
    · exact ret h ((((closeTransfer_keeps s p).trans (answer_keeps _ _ _ _)).trans (detect_keeps _ _ _ _ _)).completed)
  | rstnWarmReset =>
    simp only [exec, execRstnWarmReset] at h; split at h
    · exact ret h (.refl s)
    · exact ret h (warmReset_keeps s _)
  | powerOnReset => exact ret h (powerOn_keeps s)
  | initialisationComplete =>
    simp only [exec, execInitialisationComplete] at h; split at h
    · exact ret h (enterConfig_keeps s).completed
    · exact ret h (.refl s)
  | laneStage1Expiry => exact ret h (stage1Expiry_keeps s _).completed
  | laneStage2Expiry => exact ret h (stage2Expiry_keeps s _).completed
  | holdLimitExpiry => exact ret h (holdExpiry_keeps s _ _).completed
  | fieldCycleExpiry => exact ret h (cycleExpiry_keeps s).completed
  | fieldResponseReceived => exact ret h (fieldResponse_keeps s _ _ _).completed
  | responseWindowEnd => exact ret h (windowEnd_keeps s _).completed
  | shutdownAckReceived => exact ret h (shutdownAck_keeps s _).completed
  | tAckExpiry => exact ret h (ackExpiry_keeps s _).completed
  | settleTimerExpiry => exact ret h (settleExpiry_keeps s).completed
  | persistenceTimerExpiry => exact ret h (persistExpiry_keeps s _).completed
  | valveRunTimerExpiry => exact ret h (valveRunExpiry_keeps s _).completed
  | kneelTimerExpiry => exact ret h (kneelExpiry_keeps s).completed
  | contactSample =>
    simp only [exec, execContactSample] at h; split at h
    · exact ret h (.refl s)
    · exact ret h (sampleContacts_keeps s _).completed
  | doorStalenessExpiry => exact ret h (staleExpiry_keeps s).completed
  | doorDisagreeExpiry => exact ret h (disagreeExpiry_keeps s _).completed
  | pairingWindowExpiry w => cases w <;> exact ret h (mcWith_keeps s _ rfl rfl)
  | readyMarkLapse => exact ret h (markLapse_keeps s _)
  | csnFallingEdge => exact ret h { Keeps.refl s with queues := queuesOk_set rfl id }
  | unknownKindFrame p k =>
    simp only [exec, execUnknownKindFrame] at h; split_ifs at h
    · exact ret h (.refl s)
    · exact ret h ((closeTransfer_keeps s p).trans (answer_keeps _ _ _ _))
    · exact ret h ((closeTransfer_keeps s p).trans (answer_keeps _ _ _ _))

/-- Settles O3: the queue of commands stands under every operation that a command is made of. -/
theorem execKeepsQueue : Obligations.ExecKeepsQueue := fun _ _ _ h => (exec_keeps h).pending

/-- A law that does not speak of the queue of commands and that every command and the tick keep, every step keeps. -/
theorem kept_of_keeps {P : State → Prop} (rest : ∀ s q, P s → P { s with pending := q })
    (keeps : ∀ s t, Keeps s t → P s → P t) : Kept P := by
  intro s t h hs
  unfold step at hs
  split at hs
  · cases hs; exact keeps _ _ ((tickTimers_keeps s).completed) h
  · exact keeps _ _ (exec_keeps hs) (rest s _ h)

/-- Settles O52: the notice queues grow by offers alone. -/
theorem stepKeepsNoticeQueues : Obligations.StepKeepsNoticeQueues :=
  kept_of_keeps (fun _ _ h => h) fun _ _ k => k.queues

/-- Settles O55: the outputs change with a DREL announcement and with the at-rest flag, and follow MRU's own flag at both. -/
theorem stepKeepsReleaseOutputs : Obligations.StepKeepsReleaseOutputs :=
  kept_of_keeps (fun _ _ h => h) fun _ _ k => k.outputs

/-- Settles O56: a vote gives the law, and a lane that is FRESH no longer asks nothing of it. -/
theorem stepKeepsVote : Obligations.StepKeepsVote :=
  kept_of_keeps (fun _ _ h => h) fun _ _ k => k.vote

/-- Settles O57: a FATAL detection leaves RUN and DEGRADED, and the ways into them find no FATAL status. -/
theorem stepKeepsFatalOut : Obligations.StepKeepsFatalOut :=
  kept_of_keeps (fun _ _ h => h) fun _ _ k => k.fatal

/-- Settles O58: the value sent changes by the limiter, by a write of the limit and by a reset; the claims keep their law by
`ClaimLaw`. -/
theorem stepKeepsSteerSent : Obligations.StepKeepsSteerSent :=
  ⟨kept_of_keeps (fun _ _ h => h) fun _ _ k => k.sent, steerJointOk_claimLaw.law.kept, fun _ h => steerJoint_effective h⟩

/-- Settles O59: a load is formed within its axle's limits, and formed anew when a write moves them. -/
theorem stepKeepsLoads : Obligations.StepKeepsLoads :=
  kept_of_keeps (fun _ _ h => h) fun _ _ k => k.loads

end Sys2Proof.Machine
end

section

/-! PROOFS. The step, the queue and the frames (95_what_each_step_holds.md, 12_master_ports_and_notices.md). -/

namespace Sys2Proof.Machine

open Sys2Proof.Safety

/-- Settles O1. -/
theorem stepRunsFrontCommand : Obligations.StepRunsFrontCommand := fun _ _ _ => rfl

/-! The end of every step (Log 1, Log 2, Log 11) -/

theorem settle_succ_of_empty {s : State} (h : s.inFlight = []) (n : Nat) : settle (n + 1) s = s :=
  settle_of_empty s (n + 1) h

theorem settle_succ_of_cons {s : State} {e : Ev} {rest : List Ev} (h : s.inFlight = e :: rest) (n : Nat) :
    settle (n + 1) s = settle n (handle e { s with inFlight := rest }) := by
  rw [settle, h]

/-- Announcements taken in two parts. -/
theorem settle_add (n k : Nat) : ∀ s, settle (n + k) s = settle k (settle n s) := by
  induction n with
  | zero => intro s; rw [Nat.zero_add]; rfl
  | succ n ih =>
    intro s
    rw [Nat.succ_add]
    cases h : s.inFlight with
    | nil => rw [settle_succ_of_empty h, settle_succ_of_empty h, settle_of_empty s k h]
    | cons e rest => rw [settle_succ_of_cons h, settle_succ_of_cons h, ih]

/-- Once nothing waits, no bound on the announcements taken matters (Log 2). -/
theorem settle_stable {s : State} {n m : Nat} (h : (settle n s).inFlight = []) (le : n ≤ m) : settle m s = settle n s := by
  obtain ⟨k, rfl⟩ := Nat.exists_eq_add_of_le le
  rw [settle_add, settle_of_empty _ k h]

theorem complete_eq (s : State) : complete s = advance (settle settleLimit s) := rfl

/-- A step that leaves nothing to take, with a transaction in flight, ends as it is. -/
theorem complete_of_quiet {s : State} (h : Quiet s) : complete s = s := by
  obtain ⟨nothing, running⟩ := h
  obtain ⟨t, ht⟩ := Option.isSome_iff_exists.1 running
  rw [complete_eq, settle_of_empty s settleLimit nothing, advance_of_txn s t ht]

theorem step_of_empty {s : State} (h : s.pending = []) : step s = .next (complete (tickTimers s)) := by
  unfold step; rw [h]; rfl

/-- A tick neither announces nor ends a transaction. -/
theorem quiet_tickTimers {s : State} (h : Quiet s) : Quiet (tickTimers s) := h

/-- Settles O2: the tick is the update of the statement, and the bound of 1024 is one more settling. -/
theorem emptyQueueTicks : Obligations.EmptyQueueTicks := by
  unfold Obligations.EmptyQueueTicks
  refine ⟨fun s empty => ?ticks, fun _ _ => rfl, fun s => ⟨rfl, complete_eq s, fun n => ⟨?none, ?front, ?bound⟩⟩⟩
  case ticks =>
    refine ⟨step_of_empty empty, fun quiet => ?_⟩
    rw [step_of_empty empty, complete_of_quiet (quiet_tickTimers quiet)]
    rfl
  case none => exact fun h => settle_succ_of_empty h n
  case front => exact fun _ _ h => settle_succ_of_cons h n
  case bound => exact fun h _ le => settle_stable h le

/-! Frames that are not taken (R194) -/

/-- Settles O5: a request asks first whether its transfer was abandoned, and so do the other two frames. -/
theorem framesNotTaken : Obligations.FramesNotTaken := by
  unfold Obligations.FramesNotTaken
  refine ⟨fun c p r k ports s named abandoned => ?request, fun p clocks first s abandoned => ?bad,
    fun p k s unnamed abandoned => ?unknown, fun p k s named => ?refused⟩
  case request =>
    obtain ⟨owner, judged⟩ := exec_request named
    rw [judged, request_abandoned s p r k ports owner abandoned]
  case bad =>
    change execBadFrame p clocks first s = _
    rw [execBadFrame, if_pos abandoned]; rfl
  case unknown =>
    rw [kindNames_eq] at unnamed
    change execUnknownKindFrame p k s = _
    rw [execUnknownKindFrame, unnamed, if_neg Bool.false_ne_true, if_pos abandoned]; rfl
  case refused =>
    rw [kindNames_eq] at named
    change execUnknownKindFrame p k s = _
    rw [execUnknownKindFrame, if_pos named]

/-! A discarded frame (R186) -/

theorem exec_badFrame {p : Port} {clocks : Nat} {first : Byte} {s : State} (taken : isAbandoned p s = false) :
    exec (.badFrame p clocks first) s = .next (complete (detect .linkFrame (.port p) none (frameItem p clocks first)
      (answer p (frameKind clocks first) ⟨.badFrame, []⟩ (closeTransfer p s)))) := by
  change execBadFrame p clocks first s = _
  rw [execBadFrame, taken]; rfl

/-- In POWERUP no block detects (R156). -/
theorem detect_of_powerup {s : State} (h : s.mode = .powerup) (k : FaultKind) (src : FaultSource) (ch : Option Channel)
    (item : List Byte) : detect k src ch item s = s := by
  rw [detect, if_pos h]

/-- With nothing waiting, what a detection announces is calm. -/
theorem calmState_detect {s : State} (h : s.inFlight = []) (k : FaultKind) (src : FaultSource) (ch : Option Channel)
    (item : List Byte) : CalmState (detect k src ch item s) := by
  obtain ⟨evs, added, calm⟩ := (detect_mild s k src ch item).added
  unfold CalmState
  rw [added, h]; exact calm

/-- A status set by a detection outlives the end of the step. -/
theorem complete_detect_has {s : State} (h : s.inFlight = []) (awake : s.mode ≠ .powerup) (k : FaultKind)
    (src : FaultSource) (ch : Option Channel) (item : List Byte) : (complete (detect k src ch item s)).fu.has k = true :=
  (complete_calm _ (calmState_detect h k src ch item)).statuses k (detect_has s k src ch item awake)

/-- Settles O6. -/
theorem badFrameDiscarded : Obligations.BadFrameDiscarded := by
  unfold Obligations.BadFrameDiscarded
  intro p clocks first s taken kind u
  refine ⟨fun awake => ⟨exec_badFrame taken, fun nothing => ⟨_, exec_badFrame taken, ?_⟩⟩, fun asleep => ?_⟩
  · exact complete_detect_has (s := u) nothing awake _ _ _ _
  · rw [exec_badFrame taken]
    exact congrArg (fun t => Host.Outcome.next (complete t)) (detect_of_powerup (s := u) asleep _ _ _ _)

/-! The response (R187) -/

theorem flagByte_eq (m : Mode) (q : PortState) :
    flagByte m q = byte ((if q.queue = [] then 0 else 128) + (if q.lost then 64 else 0) + m.code) := by
  unfold flagByte
  cases q.queue <;> cases q.lost <;> rfl

/-- Settles O7. -/
theorem responseFixedAtFallingEdge : Obligations.ResponseFixedAtFallingEdge := by
  unfold Obligations.ResponseFixedAtFallingEdge
  intro p s q body
  have fixed : responseBody s.mode q = body := by unfold responseBody; rw [flagByte_eq]
  change goes { s with mpi := s.mpi.set p { q with transfer := .active (responseBody s.mode q ++ [portCrc (responseBody s.mode q)]) } } = _
  rw [fixed]; rfl

end Sys2Proof.Machine
end

section

/-! PROOFS. The requests that read (12.3, 12.4, 10.10, 11.6). -/

namespace Sys2Proof.Machine

open Sys2Proof.Safety

section Reads

variable {p : Port} {r : Byte} {s : State}

/-! The answers of the reads -/

theorem exec_nop_of_passes (h : Passes p r allPorts s) :
    exec (.nop p r) s = .next (answer p 0x00 ⟨.ok, []⟩ (closeTransfer p s)) :=
  congrArg Host.Outcome.next (request_of_passes h _ _)

theorem exec_readNotice_of_passes (h : Passes p r allPorts s) :
    exec (.readNotice p r) s = .next (owned p 0x01 (ownReadNotice p (closeTransfer p s))) :=
  congrArg Host.Outcome.next (request_of_passes h _ _)

theorem exec_readClaim_of_passes (h : Passes p r allPorts s) (ch ix : Byte) :
    exec (.readClaim p r ch ix) s = .next (answer p 0x02 (claimReply ch ix s) (closeTransfer p s)) :=
  congrArg Host.Outcome.next (request_of_passes h _ _)

theorem exec_readState_of_passes (h : Passes p r allPorts s) (sel page : Byte) :
    exec (.readState p r sel page) s =
      .next (answer p 0x03 (stateReply sel page (closeTransfer p s)) (drawFree (closeTransfer p s))) :=
  congrArg Host.Outcome.next (request_of_passes h _ _)

theorem exec_configRead_of_passes (h : Passes p r lanePorts s) (item : Byte) :
    exec (.configRead p r item) s = .next (answer p 0x12 (configReply item s) (closeTransfer p s)) :=
  congrArg Host.Outcome.next (request_of_passes h _ _)

theorem exec_readCapture_of_passes (h : Passes p r lanePorts s) (g : Byte) :
    exec (.readCapture p r g) s =
      .next (answer p 0x17 (captureReply (closeTransfer p s) g.toNat) (drawFree (closeTransfer p s))) :=
  congrArg Host.Outcome.next (request_of_passes h _ _)

theorem exec_readFaults_of_passes (h : Passes p r lanePorts s) (g : Byte) :
    exec (.readFaults p r g) s = .next (answer p 0x18 (faultsReply s g.toNat) (closeTransfer p s)) :=
  congrArg Host.Outcome.next (request_of_passes h _ _)

/-! READ_NOTICE (R193, R191) -/

theorem PerPort_set_set {α : Type} (t : PerPort α) (i : Port) (x y : α) : (t.set i x).set i y = t.set i y := by
  cases i <;> rfl

theorem payload_length_le (n : Notice) : n.payload.length ≤ 7 := by
  cases n <;> simp [Notice.payload, set3, word]

theorem alertLow_iff (q : PortState) : q.alertLow = true ↔ q.queue ≠ [] := by
  simp [PortState.alertLow]

theorem doorSet_bit (t : PerDoor Bool) (n : Door) : (doorSet t).getLsbD (doorNo n - 1) = t.get n := by
  rcases t with ⟨a, b, c, d⟩
  cases n <;> cases a <;> cases b <;> cases c <;> cases d <;> rfl

theorem ownReadNotice_of_empty (h : (s.mpi.get p).queue = []) : ownReadNotice p s = (s, some ⟨.noData, []⟩) := by
  rw [ownReadNotice, h]; rfl

theorem ownReadNotice_of_cons {n : Notice} {q : List Notice} (h : (s.mpi.get p).queue = n :: q) :
    ownReadNotice p s =
      ({ s with mpi := s.mpi.set p (popNotice (s.mpi.get p)) }, some ⟨.ok, byte n.kindNo :: n.payload⟩) := by
  rw [ownReadNotice, h]

theorem closeTransfer_port (q : Port) :
    (closeTransfer p s).mpi.get q = if q = p then { s.mpi.get p with transfer := .idle } else s.mpi.get q :=
  PerPort_get_set _ _ _ _

/-- The port after its oldest notice was taken and its transfer closed (R193). -/
theorem popNotice_of_cons {x : PortState} {n : Notice} {q : List Notice} (h : x.queue = n :: q) :
    popNotice { x with transfer := .idle } =
      { x with queue := q, lost := x.lost && decide (q ≠ []), transfer := .idle } := by
  simp only [popNotice, h, List.tail_cons]
  cases q <;> simp

/-- Settles O9. -/
theorem noticesReadOldestFirst : Obligations.NoticesReadOldestFirst := by
  unfold Obligations.NoticesReadOldestFirst
  refine ⟨fun p r s passes => ⟨fun empty => ?empty, fun n q queued => ?front⟩, payload_length_le, alertLow_iff, ?kinds,
    rfl, rfl, rfl⟩
  case empty =>
    have own : (closeTransfer p s).mpi.get p = { s.mpi.get p with transfer := .idle } :=
      (closeTransfer_port p).trans (if_pos rfl)
    rw [exec_readNotice_of_passes passes, ownReadNotice_of_empty (by rw [own]; exact empty)]; rfl
  case front =>
    have own : (closeTransfer p s).mpi.get p = { s.mpi.get p with transfer := .idle } :=
      (closeTransfer_port p).trans (if_pos rfl)
    rw [exec_readNotice_of_passes passes, ownReadNotice_of_cons (by rw [own]; exact queued), own,
      popNotice_of_cons queued, show (closeTransfer p s).mpi = s.mpi.set p { s.mpi.get p with transfer := .idle } from rfl,
      PerPort_set_set]
    rfl
  case kinds =>
    intro prev new m ks src sev k cs cl rest outs unsec kn x res nd is
    exact ⟨⟨rfl, rfl⟩, ⟨rfl, rfl⟩, ⟨rfl, rfl⟩, ⟨rfl, rfl⟩, ⟨rfl, rfl⟩, ⟨rfl, rfl⟩, ⟨rfl, rfl⟩, ⟨rfl, rfl⟩, ⟨rfl, rfl⟩,
      fun n => doorSet_bit outs n⟩

/-! What the reads leave (12.3) -/

/-- From `s` to `t` a request on port `p` changed its own previous-frame result and transfer at most, and the counter of free
values. -/
def ReadOnly (p : Port) (s t : State) : Prop :=
  SameButPortsAndFree s t ∧ QueuesKept s t ∧ ∀ q, q ≠ p → t.mpi.get q = s.mpi.get q

theorem readOnly_closeTransfer (p : Port) (s : State) : ReadOnly p s (closeTransfer p s) := by
  refine ⟨rfl, fun q => ?_, fun q hq => (closeTransfer_port q).trans (if_neg hq)⟩
  rw [closeTransfer_port]
  split
  · rename_i e; subst e; exact ⟨rfl, rfl⟩
  · exact ⟨rfl, rfl⟩

theorem readOnly_answer {t : State} (h : ReadOnly p s t) (k : Byte) (rep : Reply) : ReadOnly p s (answer p k rep t) := by
  obtain ⟨same, queues, others⟩ := h
  have port : ∀ q, (answer p k rep t).mpi.get q =
      if q = p then { t.mpi.get p with answer := ⟨k, rep.result, pad8 rep.data⟩ } else t.mpi.get q :=
    fun q => PerPort_get_set _ _ _ _
  refine ⟨same, fun q => ?_, fun q hq => by rw [port, if_neg hq]; exact others q hq⟩
  rw [port]
  split
  · rename_i e; subst e; exact queues _
  · exact queues q

/-- A request whose owner reads, and draws free values at most, leaves all else (R188). -/
theorem readOnly_request (k : Byte) (ports : Port → Bool) (owner : State → State × Option Reply)
    (h : ∀ t, ∃ n rep, owner t = ({ t with freeCount := n }, some rep)) : ReadOnly p s (request p r k ports owner s) := by
  have closed := readOnly_closeTransfer p s
  rcases request_cases s p r k ports owner with e | ⟨rep, e⟩ | e <;> rw [e]
  · exact ⟨rfl, fun _ => ⟨rfl, rfl⟩, fun _ _ => rfl⟩
  · exact readOnly_answer closed k rep
  · obtain ⟨n, rep, own⟩ := h (closeTransfer p s)
    rw [own]
    exact readOnly_answer (t := { closeTransfer p s with freeCount := n }) closed k rep

theorem request_freeCount (k : Byte) (ports : Port → Bool) (f : State → Reply) :
    (request p r k ports (fun t => (t, some (f t))) s).freeCount = s.freeCount := by
  rcases request_cases s p r k ports (fun t => (t, some (f t))) with e | ⟨rep, e⟩ | e <;> rw [e] <;> rfl

/-- A read that draws no free value. -/
theorem reads_nothing (k : Byte) (ports : Port → Bool) (f : State → Reply) :
    let t := request p r k ports (fun t => (t, some (f t))) s
    SameButPorts s t ∧ QueuesKept s t ∧ ∀ q, q ≠ p → t.mpi.get q = s.mpi.get q := by
  intro t
  obtain ⟨same, kept⟩ := readOnly_request (p := p) (r := r) (s := s) k ports (fun t => (t, some (f t)))
    fun t => ⟨t.freeCount, f t, rfl⟩
  refine ⟨?_, kept⟩
  have count : t.freeCount = s.freeCount := request_freeCount k ports f
  have same : { t with mpi := s.mpi, freeCount := s.freeCount } = s := same
  unfold SameButPorts
  rw [← count] at same
  exact same

/-- Settles O10. -/
theorem readsChangeNothing : Obligations.ReadsChangeNothing := by
  unfold Obligations.ReadsChangeNothing
  refine ⟨fun p r s passes => exec_nop_of_passes passes, fun p r b1 b2 s c hc => ?same, fun p r b1 b2 s c hc => ?free⟩
  case same =>
    fin_cases hc
    · exact ⟨_, rfl, reads_nothing 0x00 allPorts fun _ => ⟨.ok, []⟩⟩
    · exact ⟨_, rfl, reads_nothing 0x02 allPorts (claimReply b1 b2)⟩
    · exact ⟨_, rfl, reads_nothing 0x12 lanePorts (configReply b1)⟩
    · exact ⟨_, rfl, reads_nothing 0x18 lanePorts fun t => faultsReply t b1.toNat⟩
  case free =>
    fin_cases hc
    · exact ⟨_, rfl, readOnly_request 0x03 allPorts _ fun t => ⟨t.freeCount + 1, stateReply b1 b2 t, rfl⟩⟩
    · exact ⟨_, rfl, readOnly_request 0x17 lanePorts _ fun t => ⟨t.freeCount + 1, captureReply t b1.toNat, rfl⟩⟩

/-! READ_CLAIM (R23, R190) -/

theorem channelOfNo_chanNo (c : Channel) : channelOfNo (chanNo c) = some c := by
  rcases c with x | _ | _ | k | n
  · cases x <;> rfl
  · rfl
  · rfl
  · cases k <;> rfl
  · cases n <;> rfl

theorem channelOfByte_eq {c : Channel} {ch : Byte} (h : chanNo c = ch.toNat) : channelOfByte ch = some c := by
  rw [channelOfByte, ← h, channelOfNo_chanNo]

theorem channelOfByte_none {ch : Byte} (h : 14 < ch.toNat) : channelOfByte ch = none :=
  List.getElem?_eq_none (by change 15 ≤ ch.toNat; omega)

theorem claimReply_of_record {c : Channel} {ch ix : Byte} {x : Claim} {s : State} (hc : chanNo c = ch.toNat)
    (hi : ix.toNat < 8) (hx : (s.cau.get c).claims[ix.toNat]? = some x) :
    claimReply ch ix s = ⟨.ok, claimData x ix.toNat⟩ := by
  rw [claimReply, channelOfByte_eq hc]
  dsimp only
  rw [if_neg (by omega), hx]

theorem claimReply_of_beyond {c : Channel} {ch ix : Byte} {s : State} (hc : chanNo c = ch.toNat)
    (hi : ix.toNat < 8) (hlen : (s.cau.get c).claims.length ≤ ix.toNat) : claimReply ch ix s = ⟨.noData, []⟩ := by
  rw [claimReply, channelOfByte_eq hc]
  dsimp only
  rw [if_neg (by omega), List.getElem?_eq_none hlen]

theorem claimReply_refused {ch ix : Byte} (h : 14 < ch.toNat ∨ 7 < ix.toNat) (s : State) :
    claimReply ch ix s = ⟨.refusedArg, []⟩ := by
  unfold claimReply
  rcases h with h | h
  · rw [channelOfByte_none h]
  · cases channelOfByte ch with
    | none => rfl
    | some c => exact if_pos (by omega)

/-- Data byte 1 of READ_CLAIM, flag by flag (R190). -/
theorem claimByte_eq (x : Claim) (ix : Byte) :
    claimByte x ix.toNat = byte (16 * x.level + 4 * (claimKind x.source).code + (if x.hasHeld then 2 else 0) +
      (if x.hasHeld ∧ ix ≠ 0 then 1 else 0)) := by
  unfold claimByte
  by_cases h : ix = 0
  · subst h; cases x.hasHeld <;> rfl
  · have : (ix.toNat != 0) = true := bne_iff_ne.2 fun e => h (BitVec.eq_of_toNat_eq e)
    have : ¬ ix = 0#8 := h
    cases x.hasHeld <;> simp [*]

/-- Settles O11. -/
theorem claimRead : Obligations.ClaimRead := by
  unfold Obligations.ClaimRead
  intro p r ch ix s passes
  rw [exec_readClaim_of_passes passes]
  refine ⟨fun c x hc hi hx => ?record, fun c hc hi hlen => ?beyond, fun h => by rw [claimReply_refused h], rfl, rfl,
    fun _ => rfl, rfl, rfl, rfl⟩
  case record =>
    rw [claimReply_of_record hc hi hx, ← claimByte_eq]; rfl
  case beyond => rw [claimReply_of_beyond hc hi hlen]

/-! READ_CAPTURE and READ_FAULTS (R170, R171) -/

theorem captureReply_of_beyond {g : Nat} (h : 3 < g) (s : State) : captureReply s g = ⟨.refusedArg, []⟩ := by
  rw [captureReply, if_neg (by omega), if_pos h]

theorem captureReply_of_full {g : Nat} {s : State} {c : Capture} (low : 1 ≤ g) (high : g ≤ 3) (h : s.fu.capture = some c) :
    captureReply s g = ⟨.ok, captureGroup s c g⟩ := by
  rw [captureReply, if_neg (by omega), if_neg (by omega), h]

theorem captureReply_of_empty {g : Nat} {s : State} (low : 1 ≤ g) (high : g ≤ 3) (h : s.fu.capture = none) :
    captureReply s g = ⟨.noData, []⟩ := by
  rw [captureReply, if_neg (by omega), if_neg (by omega), h]

theorem faultsReply_of_beyond {g : Nat} (h : 5 < g) (s : State) : faultsReply s g = ⟨.refusedArg, []⟩ := by
  rw [faultsReply, if_neg (by omega), if_neg (by omega), if_pos h]

theorem faultsReply_of_log {g : Nat} {s : State} {l : LogEntry} (low : 2 ≤ g) (high : g ≤ 5) (h : s.fu.log = some l) :
    faultsReply s g = ⟨.ok, logGroup l g⟩ := by
  rw [faultsReply, if_neg (by omega), if_neg (by omega), if_neg (by omega), h]

theorem faultsReply_of_empty {g : Nat} {s : State} (low : 2 ≤ g) (high : g ≤ 5) (h : s.fu.log = none) :
    faultsReply s g = ⟨.noData, []⟩ := by
  rw [faultsReply, if_neg (by omega), if_neg (by omega), if_neg (by omega), h]

theorem byte_toNat (b : Byte) : byte b.toNat = b := by simp [byte]

/-- Settles O14. -/
theorem faultRecordsRead : Obligations.FaultRecordsRead := by
  unfold Obligations.FaultRecordsRead
  refine ⟨fun p r g s passes => ?capture, fun p r g s passes => ?faults⟩
  case capture =>
    intro cap
    have answered : ∀ rep, captureReply (closeTransfer p s) g.toNat = rep → cap rep := fun rep e => by
      change exec (.readCapture p r g) s = _
      rw [exec_readCapture_of_passes passes, e]
    refine ⟨fun beyond => answered _ (captureReply_of_beyond beyond _), fun empty => ⟨?_, fun low high => ?_⟩,
      fun x full => ?_⟩
    · rintro rfl
      refine answered _ ?_
      change (⟨.ok, captureHead s.fu⟩ : Reply) = _
      rw [captureHead, empty]
    · exact answered _ (captureReply_of_empty low high empty)
    · have group : ∀ n : Nat, 1 ≤ n → n ≤ 3 →
          captureReply (closeTransfer p s) n = ⟨.ok, captureGroup (closeTransfer p s) x n⟩ := fun n low high =>
        captureReply_of_full low high full
      refine ⟨?_, ?_, ?_, ?_, ?_⟩
      · rintro rfl
        refine answered _ ?_
        change (⟨.ok, captureHead s.fu⟩ : Reply) = _
        rw [captureHead, full]
      · rintro rfl; exact answered _ (group 1 (by omega) (by omega))
      · rintro rfl a ha
        refine answered _ ((group 2 (by omega) (by omega)).trans ?_)
        rw [captureGroup, ha]; rfl
      · rintro rfl none
        refine ⟨freeWordBytes (closeTransfer p s) 0, rfl, answered _ ((group 2 (by omega) (by omega)).trans ?_)⟩
        rw [captureGroup, none]; rfl
      · rintro rfl
        refine answered _ ((group 3 (by omega) (by omega)).trans ?_)
        rw [captureGroup, byte_toNat] <;> simp
  case faults =>
    intro flt
    have answered : ∀ rep, faultsReply s g.toNat = rep → flt rep := fun rep e => by
      change exec (.readFaults p r g) s = _
      rw [exec_readFaults_of_passes passes, e]
    refine ⟨fun beyond => answered _ (faultsReply_of_beyond beyond _), ?_, ?_, fun none low high => ?_, fun l some => ?_⟩
    · rintro rfl; exact answered _ rfl
    · rintro rfl; exact answered _ rfl
    · exact answered _ (faultsReply_of_empty low high none)
    · have group : ∀ n : Nat, 2 ≤ n → n ≤ 5 → faultsReply s n = ⟨.ok, logGroup l n⟩ := fun n low high =>
        faultsReply_of_log low high some
      refine ⟨?_, ?_, ?_, ?_⟩
      · rintro rfl; exact answered _ (group 2 (by omega) (by omega))
      · rintro rfl; exact answered _ (group 3 (by omega) (by omega))
      · rintro rfl; exact answered _ (group 4 (by omega) (by omega))
      · rintro rfl; exact answered _ (group 5 (by omega) (by omega))

end Reads

end Sys2Proof.Machine
end

section

/-! PROOFS. The pages of READ_STATE (R189, R190). -/

namespace Sys2Proof.Machine

open Sys2Proof.Safety

/-! Sets (R189) -/

/-- A byte below 2 ^ j has no bit from j on. -/
theorem byte_bit_of_lt {n j i : Nat} (hn : n < 2 ^ j) (hi : j ≤ i) : (byte n).getLsbD i = false := by
  have : n.testBit i = false := Nat.testBit_lt_two_pow (hn.trans_le (Nat.pow_le_pow_right (by norm_num) hi))
  simp [byte, BitVec.getLsbD_ofNat, this]

theorem axleNo_lt (x : Axle) : axleNo x < 3 := by cases x <;> decide

theorem cornerNo_lt (k : Corner) : cornerNo k < 6 := by cases k <;> decide

theorem exists_axleNo {i : Nat} (h : i < 3) : ∃ x, axleNo x = i := by
  interval_cases i
  exacts [⟨.a, rfl⟩, ⟨.b, rfl⟩, ⟨.c, rfl⟩]

theorem exists_cornerNo {i : Nat} (h : i < 6) : ∃ k, cornerNo k = i := by
  interval_cases i
  exacts [⟨.al, rfl⟩, ⟨.ar, rfl⟩, ⟨.bl, rfl⟩, ⟨.br, rfl⟩, ⟨.cl, rfl⟩, ⟨.cr, rfl⟩]

theorem axleSet_high (t : PerAxle Bool) {i : Nat} (h : 3 ≤ i) : (axleSet t).getLsbD i = false := by
  have a := Bool.toNat_lt t.a
  have b := Bool.toNat_lt t.b
  have c := Bool.toNat_lt t.c
  exact byte_bit_of_lt (by omega) h

theorem cornerSet_high (t : PerCorner Bool) {i : Nat} (h : 6 ≤ i) : (cornerSet t).getLsbD i = false := by
  have al := Bool.toNat_lt t.al
  have ar := Bool.toNat_lt t.ar
  have bl := Bool.toNat_lt t.bl
  have br := Bool.toNat_lt t.br
  have cl := Bool.toNat_lt t.cl
  have cr := Bool.toNat_lt t.cr
  exact byte_bit_of_lt (by omega) h

/-- A set of axles has the bit of each member and no other (R189). -/
theorem axleSet_bit_iff (t : PerAxle Bool) (i : Nat) :
    (axleSet t).getLsbD i = true ↔ ∃ x, axleNo x = i ∧ t.get x = true := by
  constructor
  · intro set
    have low : i < 3 := by
      by_contra high
      rw [axleSet_high t (by omega)] at set; cases set
    obtain ⟨x, rfl⟩ := exists_axleNo low
    exact ⟨x, rfl, by rwa [axleSet_bit] at set⟩
  · rintro ⟨x, rfl, member⟩
    rw [axleSet_bit]; exact member

/-- A set of corners has the bit of each member and no other (R189). -/
theorem cornerSet_bit_iff (t : PerCorner Bool) (i : Nat) :
    (cornerSet t).getLsbD i = true ↔ ∃ k, cornerNo k = i ∧ t.get k = true := by
  constructor
  · intro set
    have low : i < 6 := by
      by_contra high
      rw [cornerSet_high t (by omega)] at set; cases set
    obtain ⟨k, rfl⟩ := exists_cornerNo low
    exact ⟨k, rfl, by rwa [cornerSet_bit] at set⟩
  · rintro ⟨k, rfl, member⟩
    rw [cornerSet_bit]; exact member

/-! The listed pages (R190) -/

theorem getElem?_isSome {α : Type} (l : List α) (n : Nat) : (l[n]?).isSome = true ↔ n < l.length := by
  simp

theorem levelTail_isSome (s : State) {n : Nat} (h : 12 ≤ n) : (levelTail s n).isSome = true ↔ n < 17 := by
  obtain ⟨m, rfl⟩ := Nat.exists_eq_add_of_le' h
  match m with
  | 0 | 1 | 2 | 3 | 4 => exact iff_of_true rfl (by decide)
  | m + 5 =>
    change (none : Option (List Byte)).isSome = true ↔ _
    simp only [Option.isSome_none, Bool.false_eq_true, false_iff]; omega

theorem levelPage_isSome (s : State) (n : Nat) : (levelPage s n).isSome = true ↔ n < 17 := by
  unfold levelPage
  split
  · rename_i low
    have listed : (cornerOfNo (n / 2)).isSome = true := (getElem?_isSome _ _).2 (by change n / 2 < 6; omega)
    obtain ⟨k, hk⟩ := Option.isSome_iff_exists.1 listed
    rw [hk]
    simp only [Option.isSome_some, true_iff]; omega
  · exact levelTail_isSome s (by omega)

theorem nodesPage_isSome (s : State) (n : Nat) : (nodesPage s n).isSome = true ↔ n < 13 := by
  unfold nodesPage
  cases hn : nodeOfNo n with
  | some x =>
    have low : n < 11 := (getElem?_isSome Node.all n).1 (by rw [show Node.all[n]? = _ from hn]; rfl)
    simp only [Option.isSome_some, true_iff]; omega
  | none =>
    have high : ¬ n < 11 := fun low => by
      have := (getElem?_isSome Node.all n).2 low
      rw [show Node.all[n]? = _ from hn] at this; cases this
    dsimp only
    split_ifs
    · simp only [Option.isSome_some, true_iff]; omega
    · simp only [Option.isSome_some, true_iff]; omega
    · simp only [Option.isSome_none, Bool.false_eq_true, false_iff]; omega

/-- The listed pages are those of R190. -/
theorem statePage_isSome (s : State) (sel page : Nat) : (statePage s sel page).isSome = true ↔ page < pageCount sel := by
  have unlisted : ∀ {n m : Nat}, m ≤ n → ((none : Option (List Byte)).isSome = true ↔ n < m) := fun h => by
    simp only [Option.isSome_none, Bool.false_eq_true, false_iff]; omega
  match sel with
  | 0 =>
    match page with
    | 0 | 1 | 2 | 3 | 4 | 5 => exact iff_of_true rfl (by decide)
    | n + 6 => exact unlisted (by change 6 ≤ n + 6; omega)
  | 1 =>
    match page with
    | 0 | 1 | 2 => exact iff_of_true rfl (by decide)
    | n + 3 => exact unlisted (by change 3 ≤ n + 3; omega)
  | 2 =>
    match page with
    | 0 | 1 | 2 | 3 | 4 => exact iff_of_true rfl (by decide)
    | n + 5 => exact unlisted (by change 5 ≤ n + 5; omega)
  | 3 => exact levelPage_isSome s page
  | 4 => exact nodesPage_isSome s page
  | 5 =>
    match page with
    | 0 | 1 | 2 => exact iff_of_true rfl (by decide)
    | n + 3 => exact unlisted (by change 3 ≤ n + 3; omega)
  | 6 =>
    match page with
    | 0 | 1 | 2 | 3 | 4 | 5 => exact iff_of_true rfl (by decide)
    | n + 6 => exact unlisted (by change 6 ≤ n + 6; omega)
  | n + 7 => exact unlisted (Nat.zero_le _)

theorem stateReply_of_page {s : State} {sel page : Byte} {d : List Byte} (h : statePage s sel.toNat page.toNat = some d) :
    stateReply sel page s = ⟨.ok, d⟩ := by
  rw [stateReply, h]

theorem stateReply_of_none {s : State} {sel page : Byte} (h : statePage s sel.toNat page.toNat = none) :
    stateReply sel page s = ⟨.refusedArg, []⟩ := by
  rw [stateReply, h]

/-! Page by page (R190) -/

/-- A slot's five bytes: an empty slot's speed is free (Log 7). -/
theorem slotData_of_some {s : State} {x : Axle} {y : Sample} (h : s.mru.slots.get x = some y) :
    slotData s x = wordInt y.speed ++ [byte (min 254 ((s.mru.latest + 65536 - y.round) % 65536)),
      flag (decide (s.mru.nodeState.get x ≠ .lost))] := by
  have valid : slotValid s.mru s.mru.slots x = decide (s.mru.nodeState.get x ≠ .lost) := by
    unfold slotValid
    rw [h]
    cases s.mru.nodeState.get x <;> rfl
  rw [slotData, h, valid]
  exact List.append_assoc _ _ _

theorem slotData_of_none {s : State} {x : Axle} (h : s.mru.slots.get x = none) :
    slotData s x = freeWordBytes s (axleNo x) ++ [0xFF, 0] := by
  rw [slotData, slotValid, h]
  exact List.append_assoc _ _ _

/-- A time since an event, with whether it has happened; free while it has not (Log 7). -/
theorem sinceWord_length (free place : Nat) : (sinceWord free place none).length = 2 := rfl

theorem doorsPage_of_door (s : State) (n : Door) : doorsPage s (doorNo n - 1) = some (doorData s n) := by cases n <;> rfl

theorem levelPage_corner (s : State) (k : Corner) : levelPage s (2 * cornerNo k) = some (cornerData (s.lku.corners.get k)) := by
  cases k <;> rfl

theorem levelPage_timers (s : State) (k : Corner) :
    levelPage s (2 * cornerNo k + 1) = some (cornerTimers (s.lku.corners.get k)) := by
  cases k <;> rfl

theorem nodesPage_of_node (s : State) (n : Node) : nodesPage s (nodeNo n) = some (nodeData s n) := by
  rcases n with x | _ | _ | k
  · cases x <;> rfl
  · rfl
  · rfl
  · cases k <;> rfl

theorem portsPage_even (s : State) (p : Port) : portsPage s (2 * portNo p) = some (portPage (s.mpi.get p) false) := by
  cases p <;> rfl

theorem portsPage_odd (s : State) (p : Port) : portsPage s (2 * portNo p + 1) = some (portPage (s.mpi.get p) true) := by
  cases p <;> rfl

theorem alertLow_eq (q : PortState) : q.alertLow = decide (q.queue ≠ []) := by
  unfold PortState.alertLow; cases q.queue <;> rfl

theorem hasRecord_eq (src : Source) (l : List Claim) : hasRecord src l = decide (∃ x ∈ l, x.source = src) := by
  simp [hasRecord, List.any_eq]

/-- Settles O12: the selectors' tables are read page by page; only the slots, the times since, the flags of a list and of a queue
are more than the model's own spelling. -/
theorem statePagesRead : Obligations.StatePagesRead := by
  unfold Obligations.StatePagesRead
  refine ⟨fun p r sel page s passes => ⟨fun d listed => ?_, fun unlisted => ?_⟩, statePage_isSome,
    ⟨fun _ => rfl, fun _ => rfl, rfl, fun _ => rfl, rfl, fun _ => rfl, rfl, fun _ => rfl, rfl, fun _ => rfl, rfl, rfl, rfl,
      fun _ => rfl, rfl, fun _ => rfl⟩,
    ⟨rfl, rfl, rfl, axleSet_bit_iff, cornerSet_bit_iff, rfl, rfl⟩,
    ⟨rfl, rfl, rfl, rfl, rfl, rfl, rfl, rfl, rfl, rfl, rfl, rfl, rfl, rfl, rfl⟩, fun s => ?pages⟩
  · rw [exec_readState_of_passes passes, stateReply_of_page listed]
  · rw [exec_readState_of_passes passes, stateReply_of_none unlisted]
  case pages =>
    intro page slot since centring
    have slot_ok : ∀ x, slot x (slotData s x) := by
      intro x
      change (match s.mru.slots.get x with
        | some y => _
        | none => _)
      cases h : s.mru.slots.get x with
      | some y => exact slotData_of_some h
      | none => exact ⟨_, rfl, slotData_of_none h⟩
    have since_ok : ∀ free place (heard : Option Nat), since heard (flag heard.isSome :: sinceWord free place heard) := by
      intro free place heard
      cases heard with
      | some ms => exact rfl
      | none => exact ⟨_, sinceWord_length free place, rfl⟩
    refine ⟨rfl, ⟨_, _, slot_ok .a, slot_ok .b, rfl⟩, ⟨_, slot_ok .c, rfl⟩, rfl, rfl, ?claimed, rfl, rfl,
      ⟨_, _, since_ok s.freeCount 0 _, since_ok s.freeCount 1 _, ?lanes⟩, doorsPage_of_door s,
      ⟨_, since_ok s.freeCount 0 _, rfl⟩, fun k => ⟨levelPage_corner s k, ?timers⟩, rfl, rfl, rfl, rfl, rfl,
      nodesPage_of_node s, rfl, rfl, rfl, ?windows, rfl, rfl, fun p => ⟨?queue, portsPage_odd s p⟩⟩
    case claimed =>
      rw [← hasRecord_eq]; rfl
    case lanes => simp only [page, statePage, votePage, laneData, List.append_assoc, List.cons_append, List.nil_append]
    case timers =>
      refine (levelPage_timers s k).trans ?_
      unfold cornerTimers
      rcases (s.lku.corners.get k).persist with _ | ⟨d, ms⟩
      · rfl
      · cases d <;> rfl
    case windows =>
      change some _ = some _
      cases s.mc.standbyWin <;> cases s.mc.resetWin <;> rfl
    case queue => exact (portsPage_even s p).trans (by rw [portPage, alertLow_eq]; rfl)

end Sys2Proof.Machine
end

section

/-! PROOFS. The configuration items (R180) and the part after a power-on reset (R185). -/

namespace Sys2Proof.Machine

open Sys2Proof.Safety

/-! The value bytes of an item (R180) -/

/-- The setpoint kinds are item 8 of each entry's nine. -/
theorem itemIsKind_iff (n : Nat) : itemIsKind n = true ↔ ∃ k : Fin 12, n = 80 + 9 * k.val + 8 := by
  unfold itemIsKind
  simp only [Bool.and_eq_true, decide_eq_true_eq, beq_iff_eq]
  constructor
  · rintro ⟨⟨low, high⟩, field⟩
    exact ⟨⟨(n - 80) / 9, by omega⟩, by change n = 80 + 9 * ((n - 80) / 9) + 8; omega⟩
  · rintro ⟨k, rfl⟩
    have := k.isLt
    omega

/-- The byte of a word from bit `i` on. -/
theorem byte_toNat_div {w : Nat} (x : BitVec w) (i : Nat) : byte (x.toNat / 2 ^ i) = x.extractLsb' i 8 := by
  refine BitVec.eq_of_toNat_eq ?_
  rw [BitVec.extractLsb'_toNat, Nat.shiftRight_eq_div_pow]; rfl

/-- A two-byte value is its two bytes, most significant first. -/
theorem wordInt_eq (v : Int) :
    wordInt v = [(BitVec.ofInt 16 v).extractLsb' 8 8, (BitVec.ofInt 16 v).extractLsb' 0 8] := by
  have high := byte_toNat_div (BitVec.ofInt 16 v) 8
  have low := byte_toNat_div (BitVec.ofInt 16 v) 0
  rw [pow_zero, Nat.div_one] at low
  rw [wordInt, word, ← high, ← low]; rfl

/-- A byte depends on the number modulo any power of two from 2 ^ 8 on. -/
theorem byte_div_mod (n i : Nat) (h : i + 8 ≤ 24) : byte (n / 2 ^ i) = byte (n % 2 ^ 24 / 2 ^ i) := by
  refine BitVec.eq_of_getLsbD_eq fun j hj => ?_
  simp only [byte, BitVec.getLsbD_ofNat, hj, decide_true, Bool.true_and, Nat.testBit_div_two_pow, Nat.testBit_mod_two_pow]
  rw [decide_eq_true (by omega : j + i < 24), Bool.true_and]

/-- A three-byte value is its three bytes, most significant first. -/
theorem set3_eq {v : Int} (h : 0 ≤ v) :
    set3 v.toNat = [(BitVec.ofInt 24 v).extractLsb' 16 8, (BitVec.ofInt 24 v).extractLsb' 8 8,
      (BitVec.ofInt 24 v).extractLsb' 0 8] := by
  obtain ⟨n, rfl⟩ := Int.eq_ofNat_of_zero_le h
  have value : (BitVec.ofInt 24 (n : Int)).toNat = n % 2 ^ 24 := by simp
  have high := byte_toNat_div (BitVec.ofInt 24 (n : Int)) 16
  have mid := byte_toNat_div (BitVec.ofInt 24 (n : Int)) 8
  have low := byte_toNat_div (BitVec.ofInt 24 (n : Int)) 0
  rw [value, ← byte_div_mod n _ (by norm_num)] at high mid low
  rw [set3, Int.toNat_natCast, ← high, ← mid, ← low, pow_zero, Nat.div_one]; rfl

theorem bytes_of_kind {n : Nat} (h : itemIsKind n = true) (st : Store) : st.bytes n = set3 (st.get n).toNat := if_pos h

theorem bytes_of_not_kind {n : Nat} (h : ¬ itemIsKind n = true) (st : Store) : st.bytes n = wordInt (st.get n) := if_neg h

theorem itemHeld_iff (n : Nat) : itemHeld n = true ↔ n < 240 ∧ n ≠ 189 := by
  simp [itemHeld]

theorem configReply_of_held {item : Byte} {s : State} (h : itemHeld item.toNat = true) :
    configReply item s = ⟨.ok, s.store.bytes item.toNat⟩ := if_pos h

theorem configReply_of_unknown {item : Byte} {s : State} (h : ¬ itemHeld item.toNat = true) :
    configReply item s = ⟨.refusedArg, []⟩ := if_neg h

/-! The readers of the items (R180) -/

theorem get_ne_zero_iff (st : Store) (n : Nat) : (st.get n != 0) = true ↔ st.get n ≠ 0 := bne_iff_ne

theorem seconds_eq (st : Store) (n : Nat) : (st.get n).toNat * 1000 = 1000 * (st.get n).toNat := Nat.mul_comm _ _

theorem doorFitted_iff (st : Store) (n : Door) : st.doorFitted n = true ↔ doorNo n ≤ (st.get 48).toNat := decide_eq_true_iff

theorem severity_eq (st : Store) (k : FaultKind) :
    st.severity k = Severity.ofCode (st.get (if k = .laneLost then 54 else 188 + k.no)) := by
  unfold Store.severity; split_ifs <;> rfl

/-- A stored severity that names none of the three is FATAL (R27, R157). -/
theorem Severity.ofCode_of_other {v : Int} (zero : v ≠ 0) (one : v ≠ 1) : Severity.ofCode v = .fatal := by
  unfold Severity.ofCode
  split
  · exact absurd rfl zero
  · exact absurd rfl one
  · rfl

/-- A node stands where its channel does: only STR and JNT can be unfitted (R43). -/
theorem nodeFitted_iff (st : Store) (n : Node) :
    st.nodeFitted n = true ↔ (n = .str → st.get 35 ≠ 0) ∧ (n = .jnt → st.get 36 ≠ 0) := by
  cases n with
  | str => exact (get_ne_zero_iff st 35).trans (by simp)
  | jnt => exact (get_ne_zero_iff st 36).trans (by simp)
  | brk x => exact iff_of_true rfl (by simp)
  | lvl k => exact iff_of_true rfl (by simp)

theorem chanFitted_iff (st : Store) (c : Channel) :
    st.chanFitted c = true ↔
      (c = .str → st.get 35 ≠ 0) ∧ (c = .jnt → st.get 36 ≠ 0) ∧ ∀ n, c = .drel n → doorNo n ≤ (st.get 48).toNat := by
  cases c with
  | str => exact (get_ne_zero_iff st 35).trans (by simp)
  | jnt => exact (get_ne_zero_iff st 36).trans (by simp)
  | brk x => exact iff_of_true rfl (by simp)
  | lvl k => exact iff_of_true rfl (by simp)
  | drel n => exact (doorFitted_iff st n).trans (by simp)

/-- Settles O13. -/
theorem configItemRead : Obligations.ConfigItemRead := by
  unfold Obligations.ConfigItemRead
  refine ⟨fun p r item s passes => ⟨fun low held => ?_, fun unknown => ?_⟩, fun st n => ⟨fun two => ?_, fun kind sign => ?_⟩,
    fun st => ⟨?axles, rfl, get_ne_zero_iff st 35, get_ne_zero_iff st 36, rfl, fun _ => rfl, rfl, ?seconds,
      doorFitted_iff st, rfl, rfl, rfl, rfl, rfl, rfl, rfl, rfl, fun k => ⟨get_ne_zero_iff st _, ?severity⟩,
      get_ne_zero_iff st 230, ?ports, nodeFitted_iff st, rfl, chanFitted_iff st⟩⟩
  · rw [exec_configRead_of_passes passes, configReply_of_held ((itemHeld_iff _).2 ⟨low, held⟩)]
  · rw [exec_configRead_of_passes passes, configReply_of_unknown fun h => by
      obtain ⟨low, held⟩ := (itemHeld_iff _).1 h; omega]
  · rw [bytes_of_not_kind (mt (itemIsKind_iff n).1 two), wordInt_eq]
  · rw [bytes_of_kind ((itemIsKind_iff n).2 kind), set3_eq sign]
  case axles => intro x; cases x <;> exact ⟨rfl, rfl, rfl, rfl, rfl, rfl, rfl⟩
  case seconds =>
    simp only [Store.tMove, Store.tValve, Store.tKneel, Store.tOpenWait, Store.tKneelWait, seconds_eq, List.map_cons,
      List.map_nil]
  case severity =>
    intro v
    rw [severity_eq]
    change (v = 0 → Severity.ofCode v = _) ∧ (v = 1 → Severity.ofCode v = _) ∧ (_ → _ → Severity.ofCode v = _)
    exact ⟨fun h => h ▸ rfl, fun h => h ▸ rfl, Severity.ofCode_of_other⟩
  case ports => intro j p; cases p <;> rfl

/-! After a power-on reset (R172, R185, R194) -/

/-- Settles O60: each law's own lemma about a reset gives its part, the rest is the reset written out. -/
theorem lawsHoldAtReset : Obligations.LawsHoldAtReset := by
  unfold Obligations.LawsHoldAtReset
  refine ⟨?queues, ?lists, ?brakes, ?outputs, ?vote, ?fatal, sentOk_reset, loadsOk_reset, ?steer, ?floor, ?eligible, rfl, rfl,
    rfl, rfl, fun _ => rfl, by decide +kernel, cauReset_get, rfl, rfl, rfl, rfl, rfl, rfl, ?nodes, rfl, rfl, rfl, ?ports⟩
  case queues => exact fun p => by cases p <;> exact ⟨Nat.zero_le _, List.nodup_nil⟩
  case outputs => exact fun _ n => by cases n <;> rfl
  case vote => exact fun x stale => by cases x <;> cases stale
  case fatal => exact fun run => by rcases run with h | h <;> cases h
  case lists => exact listsOk_claimLaw.reset
  case brakes => exact brakesOk_claimLaw.reset
  case steer => exact steerJointOk_claimLaw.reset
  case eligible => exact eligibleOk_claimLaw.reset
  case floor =>
    exact floorOk_of_reset rfl ⟨by decide, by decide⟩ (by decide) rfl rfl rfl rfl rfl
  case nodes => exact fun n => by rcases n with x | _ | _ | k <;> first | rfl | cases x <;> rfl | cases k <;> rfl
  case ports => exact fun p => by cases p <;> rfl

end Sys2Proof.Machine
end

section

/-! PROOFS. The lanes (chapter 2). -/

namespace Sys2Proof.Machine

open Sys2Proof.Safety

/-! SETPOINT (R24, R25) -/

theorem calmState_of_empty {s : State} (h : s.inFlight = []) : CalmState s := by
  unfold CalmState; rw [h]; rfl

/-- A state stays calm where calm announcements are added. -/
theorem Mild.calmState {s t : State} (h : Mild s t) (calm : CalmState s) : CalmState t := by
  obtain ⟨evs, added, evs_calm⟩ := h.added
  unfold CalmState at calm ⊢
  rw [added, List.all_append, calm, evs_calm]; rfl

theorem SteerMode.ofCode_byte (b : Byte) : SteerMode.ofCode b.toNat = if b = 0 then .active else .centre := by
  unfold SteerMode.ofCode
  split
  · rename_i zero
    rw [if_pos (BitVec.eq_of_toNat_eq zero)]
  · rename_i other
    rw [if_neg (fun zero => other (by rw [zero]; rfl))]

theorem LevelMode.ofCode_byte (b : Byte) :
    LevelMode.ofCode b.toNat = if b = 1 then .high else if b = 2 then .low else .normal := by
  unfold LevelMode.ofCode
  split
  · rename_i one
    rw [if_pos (BitVec.eq_of_toNat_eq one)]
  · rename_i two
    rw [show b = 2 from BitVec.eq_of_toNat_eq two]; rfl
  · rename_i not_one not_two
    rw [if_neg (fun one => not_one (by rw [one]; rfl)), if_neg (fun two => not_two (by rw [two]; rfl))]

theorem storedSetpoint_eq (d : Word) (e : Byte) (a : Word) (st lv : Byte) :
    storedSetpoint d e a st lv = ⟨clamp 0 800 d.toNat, decide (e ≠ 0), clamp (-500) 500 a.toInt,
      if st = 0 then .active else .centre, if lv = 1 then .high else if lv = 2 then .low else .normal⟩ := by
  have flag : (e != 0) = decide (e ≠ 0) := by
    rw [Bool.eq_iff_iff, bne_iff_ne, decide_eq_true_iff]
  simp only [storedSetpoint, SteerMode.ofCode_byte, LevelMode.ofCode_byte, flag, signed]

theorem laneOfPort_lanePort (x : Lane) : laneOfPort (lanePort x) = x := by cases x <;> rfl

theorem exec_setpoint_of_passes {p : Port} {r : Byte} {s : State} (h : Passes p r lanePorts s) (d : Word) (e : Byte)
    (a : Word) (st lv : Byte) :
    exec (.setpoint p r d e a st lv) s =
      .next (owned p 0x10 (ownSetpoint (laneOfPort p) (storedSetpoint d e a st lv) (closeTransfer p s))) :=
  congrArg Host.Outcome.next (request_of_passes h _ _)

theorem ownSetpoint_of_operating {s : State} (h : s.mode.operating = true) (x : Lane) (sp : LaneSetpoint) :
    ownSetpoint x sp s = (complete (takeSetpoint x sp s),
      some ⟨.ok, votedData (lvVoted s.store x (lvStored s.store x sp s.lv))⟩) := by
  rw [ownSetpoint, if_pos h]

theorem ownSetpoint_of_not_operating {s : State} (h : s.mode.operating = false) (x : Lane) (sp : LaneSetpoint) :
    ownSetpoint x sp s = (s, some ⟨.refusedState, []⟩) := by
  rw [ownSetpoint, h, if_neg Bool.false_ne_true]; rfl

theorem all_calm_ite {e : Ev} (he : calm e = true) (b : Bool) : (if b then [e] else []).all calm = true := by
  cases b
  · rfl
  · exact (List.all_cons ..).trans (by rw [he]; rfl)

theorem voteEvents_calm (first : Bool) (old new : LaneSetpoint) : (voteEvents first old new).all calm = true := by
  unfold voteEvents
  rw [List.all_append, List.all_append, List.all_append, List.all_append, List.all_append, List.all_append, List.all_append,
    all_calm_ite rfl, all_calm_ite rfl, all_calm_ite rfl, all_calm_ite rfl, all_calm_ite rfl, all_calm_ite rfl,
    all_calm_ite rfl, all_calm_ite rfl]
  rfl

theorem raiseDisagree_mild (x : Lane) (sp : LaneSetpoint) (n : Nat) (s : State) : Mild s (raiseDisagree x sp n s) := by
  unfold raiseDisagree; split
  · exact .refl s
  · exact detect_mild _ _ _ _ _

/-- A taken SETPOINT leaves LV voted, and what it announces is calm. -/
theorem takeSetpoint_mild (x : Lane) (sp : LaneSetpoint) (s : State) :
    Mild { s with lv := lvVoted s.store x (lvStored s.store x sp s.lv) } (takeSetpoint x sp s) :=
  (raiseDisagree_mild _ _ _ _).trans (announce_mild _ _ (voteEvents_calm _ _ _))

/-- Settles O15: what the vote announces is calm, so that completing the step leaves LV as voted. -/
theorem setpointTaken : Obligations.SetpointTaken := by
  unfold Obligations.SetpointTaken
  intro x r d e a st lv s passes sp taken
  have stored : storedSetpoint d e a st lv = sp := storedSetpoint_eq d e a st lv
  refine ⟨fun operating nothing => ?_, fun idle => ?_⟩
  · generalize hu : closeTransfer (lanePort x) s = u
    have mode : u.mode = s.mode := by rw [← hu]; rfl
    have store : u.store = s.store := by rw [← hu]; rfl
    have lanes : u.lv = s.lv := by rw [← hu]; rfl
    have quiet : u.inFlight = [] := by rw [← hu]; exact nothing
    have mild := takeSetpoint_mild x sp u
    have same := complete_calm _ (mild.calmState (calmState_of_empty quiet))
    have voted : (complete (takeSetpoint x sp u)).lv = lvVoted s.store x taken :=
      (same.lv.trans mild.same.lv).trans (by rw [store, lanes]; rfl)
    refine ⟨complete (takeSetpoint x sp u), ?_, voted, (same.store.trans mild.same.store).trans store, rfl⟩
    rw [exec_setpoint_of_passes passes, laneOfPort_lanePort, stored, hu,
      ownSetpoint_of_operating (by rw [mode]; exact operating), voted, store, lanes]
    rfl
  · rw [exec_setpoint_of_passes passes, ownSetpoint_of_not_operating (s := closeTransfer (lanePort x) s) idle]; rfl

/-! The vote (R31 to R37) -/

theorem absVal_eq (x : Int) : absVal x = |x| := rfl

/-- A counter steps down while its quantity agrees, and up to 15 while it does not (R33). -/
theorem stepCounter_eq (agrees : Bool) (p : Prop) [Decidable p] (h : agrees = true ↔ p) (n : Nat) :
    stepCounter agrees n = if p then n - 1 else min 15 (n + 1) := by
  unfold stepCounter; simp only [h]

theorem twoLane_iff (l : Lv) (x : Lane) : twoLane l x = true ↔ (l.lanes.get (otherLane x)).freshness = .fresh := beq_iff_eq

section Vote

variable {l : Lv} {x : Lane} (st : Store)

theorem lvVoted_of_two (h : twoLane l x = true) :
    lvVoted st x l = { l with
      voted := votedTwo st l.voted (l.lanes.get x).stored (l.lanes.get (otherLane x)).stored
      counters := stepCounters (agreement st (l.lanes.get x).stored (l.lanes.get (otherLane x)).stored) l.counters
      basis := .both
      placed := l.placed || l.firstVoteDue
      firstVoteDue := false } := by
  simp only [lvVoted, votedAfter, countersAfter, if_pos h]

theorem lvVoted_of_solo (h : ¬ twoLane l x = true) :
    lvVoted st x l = { l with
      voted := (l.lanes.get x).stored
      basis := soloBasis x
      placed := l.placed || l.firstVoteDue
      firstVoteDue := false } := by
  simp only [lvVoted, votedAfter, countersAfter, if_neg h]

end Vote

theorem agreement_angle_iff (st : Store) (a b : LaneSetpoint) :
    (agreement st a b).angle = true ↔ |a.angle - b.angle| ≤ st.wS := decide_eq_true_iff

theorem agreement_demand_iff (st : Store) (a b : LaneSetpoint) :
    (agreement st a b).demand = true ↔ |a.demand - b.demand| ≤ st.wD := decide_eq_true_iff

theorem agreement_emergency_iff (st : Store) (a b : LaneSetpoint) :
    (agreement st a b).emergency = true ↔ a.emergency = b.emergency := beq_iff_eq

theorem agreement_steer_iff (st : Store) (a b : LaneSetpoint) :
    (agreement st a b).steer = true ↔ a.steer = b.steer := beq_iff_eq

theorem agreement_level_iff (st : Store) (a b : LaneSetpoint) :
    (agreement st a b).level = true ↔ a.level = b.level := beq_iff_eq

theorem toNat_reaches (nDis before after : Nat) :
    (reaches nDis before after).toNat = if before + 1 = nDis ∧ after = nDis then 1 else 0 := by
  unfold reaches
  by_cases h : before + 1 = nDis ∧ after = nDis
  · rw [if_pos h, h.1, h.2]; simp
  · rw [if_neg h]; simpa [Bool.toNat_eq_zero] using fun e f => h ⟨e, f⟩

theorem voteEvents_eq (first : Bool) (old new : LaneSetpoint) :
    voteEvents first old new =
      (if first = true ∨ old.demand ≠ new.demand then [Ev.demand new.demand] else []) ++
      (if first = true ∨ old.emergency ≠ new.emergency then [Ev.emerg new.emergency] else []) ++
      (if first = true ∨ old.angle ≠ new.angle then [Ev.angle new.angle] else []) ++
      (if first = true ∨ old.steer ≠ new.steer then [Ev.steerMode new.steer] else []) ++
      (if first = true ∨ old.level ≠ new.level then [Ev.levelMode new.level] else []) ++
      (if first = true then [Ev.placeLane] else []) ++
      (if old.emergency = false ∧ new.emergency = true then [Ev.placeEmerg] else []) ++
      (if old.emergency = true ∧ new.emergency = false then [Ev.withdrawEmerg] else []) := by
  simp only [voteEvents, Bool.or_eq_true, Bool.and_eq_true, bne_iff_ne, Bool.not_eq_true']

/-- Settles O16. -/
theorem voteForms : Obligations.VoteForms := by
  unfold Obligations.VoteForms
  intro st x l a b v count
  refine ⟨rfl, fun fresh => ?two, fun stale => ?solo, fun sp s => ?taken⟩
  case two =>
    have hv : v = _ := lvVoted_of_two st ((twoLane_iff l x).2 fresh)
    have two : (votedTwo st l.voted a b).angle = (if |a.angle - b.angle| ≤ st.wS then (a.angle + b.angle).tdiv 2 else l.voted.angle) ∧
        (votedTwo st l.voted a b).steer = (if a.steer = b.steer then a.steer else .centre) ∧
        (votedTwo st l.voted a b).level = (if a.level = b.level then a.level else l.voted.level) := by
      simp only [votedTwo, agreement_angle_iff, agreement_steer_iff, agreement_level_iff, truncDiv, and_self]
    obtain ⟨angle, steer, level⟩ := two
    rw [hv]
    refine ⟨rfl, rfl, angle, steer, level, rfl, ?_⟩
    have step : ∀ (g : Bool) (p : Prop) [Decidable p], (g = true ↔ p) → ∀ n, stepCounter g n = count p n :=
      fun g p _ h n => stepCounter_eq g p h n
    change stepCounters (agreement st a b) l.counters = _
    rw [stepCounters, step _ _ (agreement_demand_iff st a b), step _ _ (agreement_emergency_iff st a b),
      step _ _ (agreement_angle_iff st a b), step _ _ (agreement_steer_iff st a b), step _ _ (agreement_level_iff st a b)]
  case solo =>
    have hv : v = _ := lvVoted_of_solo st (mt (twoLane_iff l x).1 stale)
    rw [hv]
    exact ⟨rfl, rfl, by cases x <;> rfl⟩
  case taken =>
    intro w first old new up reached raised said
    have hreached : reachedSet s.store.nDis s.lv.counters w.counters = reached := by
      simp only [reachedSet, toNat_reaches]; rfl
    have hraised : raiseDisagree x sp reached { s with lv := w } = raised := by
      unfold raiseDisagree
      change _ = if reached = 0 then _ else _
      split_ifs
      · rfl
      · rfl
    refine ⟨?_, rfl, fun due => ?_, rfl, rfl, rfl⟩
    · change announce (voteEvents s.lv.firstVoteDue old new)
        (raiseDisagree x sp (reachedSet s.store.nDis s.lv.counters w.counters) { s with lv := w }) = _
      rw [hreached, hraised, voteEvents_eq]
    · change (s.lv.placed || s.lv.firstVoteDue) = true
      rw [show s.lv.firstVoteDue = true from due, Bool.or_true]

/-! The lane timers (R26 to R28) -/

section Timers

variable {x : Lane} {s : State} {ms : Nat}

theorem stage1Expiry_of_stage1 (h : (s.lv.lanes.get x).timer = .stage1 ms) :
    stage1Expiry x s = detect .laneStale (.port (lanePort x)) none (laneItem (s.lv.lanes.get x).stored)
      { s with lv := { setLane x .stale (.stage2 s.store.tGrace) s.lv with basis := basisAfterStale s.lv x } } := by
  rw [stage1Expiry, h]

theorem stage2Expiry_of_stage2 (h : (s.lv.lanes.get x).timer = .stage2 ms) :
    stage2Expiry x s = raiseBothLost x (detect .laneLost (.port (lanePort x)) none (laneItem (s.lv.lanes.get x).stored)
      { s with lv := setLane x .lost .stopped s.lv }) := by
  rw [stage2Expiry, h]

theorem stage1Expiry_of_not (h : ∀ ms, (s.lv.lanes.get x).timer ≠ .stage1 ms) : stage1Expiry x s = s := by
  unfold stage1Expiry; split
  · rename_i ms running; exact absurd running (h ms)
  · rfl

theorem stage2Expiry_of_not (h : ∀ ms, (s.lv.lanes.get x).timer ≠ .stage2 ms) : stage2Expiry x s = s := by
  unfold stage2Expiry; split
  · rename_i ms running; exact absurd running (h ms)
  · rfl

end Timers

/-- A detection with nothing waiting leaves LV, to the end of the step, and outside POWERUP sets its status. -/
theorem complete_detect_lv {s u t : State} {l : Lv} {k : FaultKind} {src : FaultSource} {ch : Option Channel}
    {item : List Byte} (ht : t = complete (detect k src ch item u)) (quiet : u.inFlight = []) (mode : u.mode = s.mode)
    (lanes : u.lv = l) : t.lv = l ∧ (s.mode ≠ .powerup → t.fu.has k = true) := by
  subst ht
  refine ⟨((complete_calm _ (calmState_detect quiet k src ch item)).lv.trans (detect_mild u k src ch item).same.lv).trans
    lanes, fun awake => complete_detect_has quiet (by rw [mode]; exact awake) _ _ _ _⟩

theorem mode_detect_ne_powerup {s : State} (h : s.mode ≠ .powerup) (k : FaultKind) (src : FaultSource) (ch : Option Channel)
    (item : List Byte) : (detect k src ch item s).mode ≠ .powerup := by
  rcases mode_detect s k src ch item with e | e | e <;> rw [e]
  · exact h
  · nofun
  · nofun

theorem exec_laneStage1Expiry (x : Lane) (s : State) : exec (.laneStage1Expiry x) s = .next (complete (stage1Expiry x s)) := rfl

theorem exec_laneStage2Expiry (x : Lane) (s : State) : exec (.laneStage2Expiry x) s = .next (complete (stage2Expiry x s)) := rfl

/-- The lane's own change leaves the other lane, whose loss decides BOTH_LANES_LOST (R28). -/
theorem freshness_otherLane_set (t : PerLane LaneState) (x : Lane) (y : LaneState) :
    ((t.set x y).get (otherLane x)).freshness = (t.get (otherLane x)).freshness := by cases x <;> rfl

theorem otherFreshness_detect (x : Lane) (k : FaultKind) (src : FaultSource) (ch : Option Channel) (item : List Byte) (s : State) :
    ((detect k src ch item s).lv.lanes.get (otherLane x)).freshness = (s.lv.lanes.get (otherLane x)).freshness := by
  rw [(detect_mild s k src ch item).same.lv]

theorem raiseBothLost_mild (x : Lane) (s : State) : Mild s (raiseBothLost x s) := by
  unfold raiseBothLost; split
  · exact detect_mild _ _ _ _ _
  · exact .refl s

/-- After the two detections of a stage-2 expiry the lane is LOST, and LANE_LOST is set outside POWERUP (R27, R28). -/
theorem complete_stage2_lv {x : Lane} {s u t : State} {l : Lv} {src : FaultSource} {item : List Byte}
    (ht : t = complete (raiseBothLost x (detect .laneLost src none item u))) (quiet : u.inFlight = [])
    (mode : u.mode = s.mode) (lanes : u.lv = l) :
    t.lv = l ∧ (s.mode ≠ .powerup → t.fu.has .laneLost = true) ∧
      (s.mode ≠ .powerup → (l.lanes.get (otherLane x)).freshness = .lost → t.fu.has .bothLanesLost = true) := by
  have first := detect_mild u .laneLost src none item
  have second := raiseBothLost_mild x (detect .laneLost src none item u)
  have last := complete_calm _ (second.calmState (calmState_detect quiet .laneLost src none item))
  subst ht lanes
  refine ⟨(last.lv.trans second.same.lv).trans first.same.lv, fun awake => ?_, fun awake lost => ?_⟩
  · exact last.statuses _ (second.same.statuses _ (detect_has u _ _ _ _ (by rw [mode]; exact awake)))
  · refine last.statuses _ ?_
    rw [raiseBothLost, otherFreshness_detect, if_pos lost]
    exact detect_has _ _ _ _ _ (mode_detect_ne_powerup (by rw [mode]; exact awake) _ _ _ _)

/-- Settles O17. -/
theorem laneTimersExpire : Obligations.LaneTimersExpire := by
  unfold Obligations.LaneTimersExpire
  intro x s lane other fields port
  have hport : FaultSource.port (lanePort x) = port := by cases x <;> rfl
  have stage1 : ∀ ms, lane.timer = .stage1 ms → exec (.laneStage1Expiry x) s = .next (complete (detect .laneStale port none fields
      { s with lv := { s.lv with
        lanes := s.lv.lanes.set x { lane with freshness := .stale, timer := .stage2 s.store.tGrace }
        basis := if other.freshness = .fresh then soloBasis (otherLane x) else .held } })) := fun ms running => by
    rw [exec_laneStage1Expiry, stage1Expiry_of_stage1 running, hport]; rfl
  have stage2 : ∀ ms, lane.timer = .stage2 ms → exec (.laneStage2Expiry x) s =
      .next (complete (raiseBothLost x (detect .laneLost (.port (lanePort x)) none fields
        { s with lv := { s.lv with lanes := s.lv.lanes.set x { lane with freshness := .lost, timer := .stopped } } }))) :=
    fun ms running => by rw [exec_laneStage2Expiry, stage2Expiry_of_stage2 running]; rfl
  refine ⟨stage1, fun ms running => ?both, ⟨rfl, rfl⟩, fun ms running nothing => ⟨_, stage1 ms running, complete_detect_lv rfl nothing rfl rfl⟩,
    fun ms running nothing => ⟨_, stage2 ms running, ?_⟩, fun still => ?_, fun still => ?_⟩
  case both =>
    intro lost
    have same : ((detect .laneLost port none fields { s with lv := { s.lv with
        lanes := s.lv.lanes.set x { lane with freshness := .lost, timer := .stopped } } }).lv.lanes.get (otherLane x)).freshness =
        other.freshness := (otherFreshness_detect _ _ _ _ _ _).trans (freshness_otherLane_set _ _ _)
    have stored : ((detect .laneLost port none fields { s with lv := { s.lv with
        lanes := s.lv.lanes.set x { lane with freshness := .lost, timer := .stopped } } }).lv.lanes.get x).stored =
        lane.stored := by
      rw [(detect_mild _ _ _ _ _).same.lv]; cases x <;> rfl
    rw [stage2 ms running, hport, raiseBothLost, same, stored]
    rfl
  · obtain ⟨lanes, laneLost, bothLost⟩ := complete_stage2_lv (x := x) (s := s) (t := complete (raiseBothLost x
      (detect .laneLost (.port (lanePort x)) none fields { s with lv := { s.lv with
        lanes := s.lv.lanes.set x { lane with freshness := .lost, timer := .stopped } } }))) rfl nothing rfl rfl
    exact ⟨lanes, laneLost, fun awake lost => bothLost awake ((freshness_otherLane_set _ _ _).trans lost)⟩
  · rw [exec_laneStage1Expiry, stage1Expiry_of_not still]
  · rw [exec_laneStage2Expiry, stage2Expiry_of_not still]

end Sys2Proof.Machine
end

section

/-! PROOFS. One claim list: placement, re-placement, withdrawal, expiry (R8, R12 to R18). -/

namespace Sys2Proof.Machine

open Sys2Proof.Safety

/-! Insertion (R12, R16, R17) -/

/-- The records that stay before a new one of level `n`: those of equal or higher level at the front (R12). -/
def atLeast (n : Nat) (l : List Claim) : List Claim := l.takeWhile fun x => decide (n ≤ x.level)

/-- The records that a new one of level `n` goes before (R12). -/
def belowLevel (n : Nat) (l : List Claim) : List Claim := l.dropWhile fun x => decide (n ≤ x.level)

theorem atLeast_append_belowLevel (n : Nat) (l : List Claim) : atLeast n l ++ belowLevel n l = l :=
  List.takeWhile_append_dropWhile

theorem level_of_mem_atLeast {n : Nat} {l : List Claim} {x : Claim} (h : x ∈ atLeast n l) : n ≤ x.level :=
  of_decide_eq_true (List.mem_takeWhile_imp (p := fun x : Claim => decide (n ≤ x.level)) h)

theorem atLeast_cons {n : Nat} {x : Claim} {l : List Claim} (h : n ≤ x.level) : atLeast n (x :: l) = x :: atLeast n l := by
  simp [atLeast, h]

theorem belowLevel_cons {n : Nat} {x : Claim} {l : List Claim} (h : n ≤ x.level) : belowLevel n (x :: l) = belowLevel n l := by
  simp [belowLevel, h]

theorem atLeast_cons_of_lt {n : Nat} {x : Claim} {l : List Claim} (h : ¬ n ≤ x.level) : atLeast n (x :: l) = [] := by
  simp [atLeast, h]

theorem belowLevel_cons_of_lt {n : Nat} {x : Claim} {l : List Claim} (h : ¬ n ≤ x.level) :
    belowLevel n (x :: l) = x :: l := by
  simp [belowLevel, h]

/-- In an ordered list all from the first record of lower level on is of lower level (R9). -/
theorem level_of_mem_belowLevel {n : Nat} {l : List Claim} (ordered : l.Pairwise Before) {x : Claim} (h : x ∈ belowLevel n l) :
    x.level < n := by
  induction l with
  | nil => exact absurd h List.not_mem_nil
  | cons y l ih =>
    obtain ⟨first, rest⟩ := List.pairwise_cons.1 ordered
    by_cases high : n ≤ y.level
    · rw [belowLevel_cons high] at h; exact ih rest h
    · rw [belowLevel_cons_of_lt high] at h
      rcases List.mem_cons.1 h with rfl | h
      · omega
      · have := before_level (first x h); omega

theorem insertBelow_eq (new : Claim) (l : List Claim) :
    insertBelow new l = atLeast new.level l ++ new :: belowLevel new.level l := by
  induction l with
  | nil => rfl
  | cons x l ih =>
    unfold insertBelow
    split_ifs with high
    · rw [atLeast_cons high, belowLevel_cons high, ih]; rfl
    · rw [atLeast_cons_of_lt high, belowLevel_cons_of_lt high]; rfl

theorem insertRecord_of_head {st : Store} {new : Claim} {l : List Claim} (h : atLeast new.level l ≠ []) :
    insertRecord st new l = atLeast new.level l ++ new :: belowLevel new.level l := by
  cases l with
  | nil => exact absurd rfl h
  | cons x l =>
    have high : new.level ≤ x.level := by
      by_contra low; exact h (atLeast_cons_of_lt low)
    rw [insertRecord, if_pos high, insertBelow_eq, atLeast_cons high, belowLevel_cons high]; rfl

theorem insertRecord_at_head {st : Store} {new x : Claim} {l : List Claim} (h : atLeast new.level (x :: l) = []) :
    insertRecord st new (x :: l) = promote new :: displace st x :: l := by
  rw [insertRecord, if_neg]
  intro high
  rw [atLeast_cons high] at h; cases h

theorem hasRecord_iff (src : Source) (l : List Claim) : hasRecord src l = true ↔ ∃ x ∈ l, x.source = src := by
  simp [hasRecord]

theorem hasRecord_of_none {src : Source} {l : List Claim} (h : ∀ x ∈ l, x.source ≠ src) : hasRecord src l = false := by
  rw [Bool.eq_false_iff, ne_eq, hasRecord_iff]
  rintro ⟨x, member, own⟩
  exact h x member own

theorem makeRoom_of_lt {cl : ClaimList} (h : cl.counter < 4294967295) : makeRoom cl = cl := by
  rw [makeRoom, if_neg]; unfold counterMax; omega

/-- A placement by a source with no record (R12). -/
theorem placeList_of_new {st : Store} {src : Source} {sp : Setpoint} {cl : ClaimList} (room : cl.counter < 4294967295)
    (new : ∀ x ∈ cl.claims, x.source ≠ src) :
    placeList st src sp cl =
      ⟨insertRecord st ⟨src, sourceLevel st src, sp, cl.counter + 1, startHold st src, false⟩ cl.claims, cl.counter + 1⟩ := by
  simp only [placeList, makeRoom_of_lt room, hasRecord_of_none new, Bool.false_eq_true, if_false]

/-- A placement by a source with a record (R13). -/
theorem placeList_of_standing {st : Store} {src : Source} {sp : Setpoint} {cl : ClaimList} (room : cl.counter < 4294967295)
    (standing : ∃ x ∈ cl.claims, x.source = src) :
    placeList st src sp cl = ⟨rePlace src sp cl.claims, cl.counter + 1⟩ := by
  simp only [placeList, makeRoom_of_lt room, (hasRecord_iff _ _).2 standing, if_true]

/-! Hold limits, levels and claim kinds (R4, R15) -/

theorem holdLimit_seconds (n : Nat) : holdLimit (n * 1000) = if n = 0 then .noLimit else .running (1000 * n) := by
  unfold holdLimit
  by_cases h : n = 0
  · subst h; rfl
  · rw [if_neg h, if_neg (by omega), Nat.mul_comm]

theorem startHold_of_not_oneShot {src : Source} (h : claimKind src ≠ .oneShot) (st : Store) : startHold st src = .absent := by
  cases src with
  | doorKneel => exact absurd rfl h
  | doorOpen n => exact absurd rfl h
  | _ => rfl

theorem sourceLevel_prog (st : Store) (k : Fin 12) : sourceLevel st (.entry (.prog k)) = (st.get (87 + 9 * k.val)).toNat := by
  change (st.get (80 + 9 * k.val + 7)).toNat = _
  rw [show 80 + 9 * k.val + 7 = 87 + 9 * k.val by omega]

theorem claimKind_condition_iff (src : Source) : claimKind src = .condition ↔ ∃ e, src = .entry e := by
  cases src <;> simp [claimKind]

theorem claimKind_oneShot_iff (src : Source) : claimKind src = .oneShot ↔ src = .doorKneel ∨ ∃ n, src = .doorOpen n := by
  cases src <;> simp [claimKind]

/-- Settles O18: the list splits at the first record of lower level, which in an ordered list no higher one follows. -/
theorem placementInserts : Obligations.PlacementInserts := by
  unfold Obligations.PlacementInserts
  rintro st src sp ⟨l, counter⟩ ⟨ordered, -⟩ room new
  refine ⟨atLeast (sourceLevel st src) l, belowLevel (sourceLevel st src) l, (atLeast_append_belowLevel _ _).symm,
    fun x => level_of_mem_atLeast, fun x => level_of_mem_belowLevel ordered, fun first => ?_, fun later => ?_,
    fun kind => startHold_of_not_oneShot kind st, ?_, ?_,
    ⟨rfl, rfl, rfl, rfl, rfl, rfl, rfl, sourceLevel_prog st, rfl, rfl, fun _ => rfl, rfl, rfl⟩,
    claimKind_condition_iff src, claimKind_oneShot_iff src⟩
  · rw [placeList_of_new room new]
    cases l with
    | nil => rfl
    | cons x l =>
      rw [insertRecord_at_head first, show belowLevel (sourceLevel st src) (x :: l) = x :: l by
        have split := atLeast_append_belowLevel (sourceLevel st src) (x :: l)
        rwa [first, List.nil_append] at split]
      rfl
  · rw [placeList_of_new room new, insertRecord_of_head later]
  · rintro n rfl; exact holdLimit_seconds _
  · rintro rfl; exact holdLimit_seconds _

/-! Renumbering (R8) -/

theorem length_renumber (n : Nat) (l : List Claim) : (renumber n l).length = l.length := by
  induction l generalizing n with
  | nil => rfl
  | cons x l ih => exact congrArg (· + 1) (ih (n + 1))

theorem getElem?_renumber (n : Nat) (l : List Claim) (i : Nat) {x : Claim} (h : l[i]? = some x) :
    (renumber n l)[i]? = some { x with stamp := n + i } := by
  induction l generalizing n i with
  | nil => simp at h
  | cons y l ih =>
    cases i with
    | zero =>
      obtain rfl : y = x := by simpa using h
      rfl
    | succ i =>
      have := ih (n + 1) i (by simpa using h)
      rw [show n + (i + 1) = n + 1 + i by omega]
      exact this

theorem renumber_renumber (n m : Nat) (l : List Claim) : renumber n (renumber m l) = renumber n l := by
  induction l generalizing n m with
  | nil => rfl
  | cons x l ih => exact congrArg ({ x with stamp := n } :: ·) (ih (n + 1) (m + 1))

theorem makeRoom_of_max {cl : ClaimList} (h : cl.counter = 4294967295) :
    makeRoom cl = ⟨renumber 1 cl.claims, cl.claims.length⟩ := if_pos h

/-- Room is made once: a renumbered list is its own renumbering. -/
theorem makeRoom_renumbered (l : List Claim) : makeRoom ⟨renumber 1 l, l.length⟩ = ⟨renumber 1 l, l.length⟩ := by
  unfold makeRoom
  split_ifs
  · rw [renumber_renumber, length_renumber]
  · rfl

theorem placeList_of_room {st : Store} {src : Source} {sp : Setpoint} {cl cl' : ClaimList} (h : makeRoom cl = makeRoom cl') :
    placeList st src sp cl = placeList st src sp cl' := by
  unfold placeList; rw [h]

theorem counter_placeList (st : Store) (src : Source) (sp : Setpoint) (cl : ClaimList) :
    (placeList st src sp cl).counter = (makeRoom cl).counter + 1 := by
  unfold placeList
  dsimp only
  split_ifs <;> rfl

/-! Withdrawal (R14, R16) -/

theorem withdrawList_of_cons_ne {src : Source} {cl : ClaimList} {x : Claim} {l : List Claim} (h : cl.claims = x :: l)
    (other : x.source ≠ src) : withdrawList src cl = { cl with claims := x :: without src l } := by
  simp only [withdrawList, h, if_neg other]

theorem withdrawList_of_cons_eq {src : Source} {cl : ClaimList} {x : Claim} {l : List Claim} (h : cl.claims = x :: l)
    (own : x.source = src) : withdrawList src cl = { cl with claims := promoteHead (without src l) } := by
  simp only [withdrawList, h, if_pos own]

theorem without_of_none {src : Source} {l : List Claim} (h : ∀ x ∈ l, x.source ≠ src) : without src l = l :=
  List.filter_eq_self.2 fun x member => decide_eq_true (h x member)

theorem withdrawList_of_none {src : Source} {cl : ClaimList} (h : ∀ x ∈ cl.claims, x.source ≠ src) :
    withdrawList src cl = cl := by
  rcases cl with ⟨_ | ⟨x, l⟩, n⟩
  · rfl
  · rw [withdrawList_of_cons_ne rfl (h x List.mem_cons_self), without_of_none fun y member => h y (List.mem_cons_of_mem _ member)]

theorem counter_withdrawList (src : Source) (cl : ClaimList) : (withdrawList src cl).counter = cl.counter := by
  unfold withdrawList
  split
  · rfl
  · split_ifs <;> rfl

/-- Settles O19. -/
theorem recordsReplacedAndWithdrawn : Obligations.RecordsReplacedAndWithdrawn := by
  unfold Obligations.RecordsReplacedAndWithdrawn
  refine ⟨fun n l => ⟨length_renumber n l, fun i x listed => getElem?_renumber n l i listed⟩, fun st src sp cl =>
    ⟨fun standing room => placeList_of_standing room standing, fun full => ?_, counter_withdrawList src cl,
      withdrawList_of_none, fun x l front => ⟨fun other => ?_, fun own => ?_⟩⟩⟩
  · have room := makeRoom_of_max full
    refine ⟨by rw [counter_placeList, room], placeList_of_room (room.trans (makeRoom_renumbered _).symm)⟩
  · rw [withdrawList_of_cons_ne front other]; rfl
  · rw [withdrawList_of_cons_eq front own]
    change promoteHead (without src l) = _
    unfold without
    cases l.filter fun y => decide (y.source ≠ src) <;> rfl

/-! What a change of list announces (R16, R17, R20, R21) -/

section ChangeList

variable (s : State) (c : Channel) (new : ClaimList)

@[simp] theorem holder_changeList : (changeList c new s).holder c = holderOf new.claims := by
  change holderOf ((s.cau.set c new).get c).claims = _
  rw [PerChannel_get_set, if_pos rfl]

@[simp] theorem effective_changeList : (changeList c new s).effective c = effectiveOf s.store c new.claims := by
  change effectiveOf s.store c ((s.cau.set c new).get c).claims = _
  rw [PerChannel_get_set, if_pos rfl]

@[simp] theorem cau_changeList : (changeList c new s).cau.get c = new := by
  change (s.cau.set c new).get c = _
  rw [PerChannel_get_set, if_pos rfl]

theorem cau_changeList_of_ne {d : Channel} (h : d ≠ c) : (changeList c new s).cau.get d = s.cau.get d := by
  change (s.cau.set c new).get d = _
  rw [PerChannel_get_set, if_neg h]

/-- The announcement that takes channel `c` from `s` to `u` (R20). -/
def announcedChange (s u : State) (c : Channel) : List Ev :=
  if s.holder c = u.holder c ∧ s.effective c = u.effective c then []
  else [.channel c (u.holder c) (u.effective c) (decide (s.holder c ≠ u.holder c))]

theorem inFlight_changeList : (changeList c new s).inFlight = s.inFlight ++ announcedChange s (changeList c new s) c := by
  unfold announcedChange
  rw [holder_changeList, effective_changeList]; rfl

theorem claimNotices_of_eq {old new : List Claim} (h : holderOf old = holderOf new) : claimNotices c old new = [] := if_pos h

theorem mpi_changeList_of_holder (h : (changeList c new s).holder c = s.holder c) : (changeList c new s).mpi = s.mpi := by
  rw [holder_changeList] at h
  change offerMany s.store (claimNotices c (s.cau.get c).claims new.claims) s.mpi = _
  rw [claimNotices_of_eq c (show holderOf (s.cau.get c).claims = _ from h.symm)]; rfl

theorem mpi_changeList :
    (changeList c new s).mpi = offerMany s.store (claimNotices c (s.cau.get c).claims new.claims) s.mpi := rfl

end ChangeList

/-! Expiry of a hold limit (R18) -/

/-- A withdrawal of one that is not holder leaves the holder. -/
theorem claims_withdrawList {src : Source} {cl : ClaimList} (h : holderOf cl.claims ≠ some src) :
    (withdrawList src cl).claims = cl.claims.filter fun x => x.source ≠ src := by
  rcases cl with ⟨_ | ⟨x, l⟩, n⟩
  · rfl
  · have other : x.source ≠ src := fun own => h (congrArg some own)
    rw [withdrawList_of_cons_ne rfl other]
    exact (List.filter_cons_of_pos (p := fun x : Claim => decide (x.source ≠ src)) (decide_eq_true other)).symm

theorem holderOf_withdrawList {src : Source} {cl : ClaimList} (h : holderOf cl.claims ≠ some src) :
    holderOf (withdrawList src cl).claims = holderOf cl.claims := by
  rcases cl with ⟨_ | ⟨x, l⟩, n⟩
  · rfl
  · have other : x.source ≠ src := fun own => h (congrArg some own)
    rw [withdrawList_of_cons_ne rfl other]; rfl

theorem effectiveOf_withdrawList {src : Source} {cl : ClaimList} (h : holderOf cl.claims ≠ some src) (st : Store) (c : Channel) :
    effectiveOf st c (withdrawList src cl).claims = effectiveOf st c cl.claims := by
  rcases cl with ⟨_ | ⟨x, l⟩, n⟩
  · rfl
  · have other : x.source ≠ src := fun own => h (congrArg some own)
    rw [withdrawList_of_cons_ne rfl other]; rfl

theorem exec_holdLimitExpiry (c : Channel) (src : Source) (s : State) :
    exec (.holdLimitExpiry c src) s = .next (complete (holdExpiry c src s)) := rfl

theorem holdExpiry_of_running {c : Channel} {src : Source} {s : State} (h : holdRuns src (s.cau.get c).claims = true) :
    holdExpiry c src s = withdrawClaim src c { s with mpi := offerMany s.store (expiredNotices c src) s.mpi } := by
  rw [holdExpiry, if_pos h]

theorem holdExpiry_of_stopped {c : Channel} {src : Source} {s : State} (h : holdRuns src (s.cau.get c).claims = false) :
    holdExpiry c src s = s := by
  rw [holdExpiry, if_neg (by rw [h]; exact Bool.false_ne_true)]

theorem announcedChange_of_same {s u : State} {c : Channel} (holder : u.holder c = s.holder c)
    (effective : u.effective c = s.effective c) : announcedChange s u c = [] := if_pos ⟨holder.symm, effective.symm⟩

/-- Settles O21. -/
theorem holdLimitExpires : Obligations.HoldLimitExpires := by
  unfold Obligations.HoldLimitExpires
  refine fun c src s => ⟨fun runs follower => ?_, fun stopped => ?_⟩
  · generalize hu : ({ s with mpi := offerMany s.store (expiredNotices c src) s.mpi } : State) = u
    have cau : u.cau = s.cau := by rw [← hu]
    have follower' : holderOf (u.cau.get c).claims ≠ some src := by rw [cau]; exact follower
    have holder : (withdrawClaim src c u).holder c = u.holder c :=
      (holder_changeList _ _ _).trans (holderOf_withdrawList follower')
    have effective : (withdrawClaim src c u).effective c = u.effective c :=
      (effective_changeList _ _ _).trans (effectiveOf_withdrawList follower' _ _)
    have list : (withdrawClaim src c u).cau.get c = withdrawList src (u.cau.get c) := cau_changeList _ _ _
    have told : (withdrawClaim src c u).inFlight = u.inFlight := by
      refine (inFlight_changeList _ _ _).trans ((congrArg (u.inFlight ++ ·) ?_).trans (List.append_nil _))
      exact announcedChange_of_same holder effective
    have noticed : (withdrawClaim src c u).mpi = u.mpi := mpi_changeList_of_holder _ _ _ holder
    refine ⟨withdrawClaim src c u, ?_, ?_, ?_, fun d other => ?_, ?_, ?_, ?_, ?_, ?_⟩
    · rw [exec_holdLimitExpiry, holdExpiry_of_running runs, hu]
    · rw [list, claims_withdrawList follower', cau]
    · rw [list, counter_withdrawList, cau]
    · rw [show (withdrawClaim src c u).cau.get d = u.cau.get d from cau_changeList_of_ne _ _ _ other, cau]
    · rw [holder, ← hu]; rfl
    · rw [effective, ← hu]; rfl
    · rw [told, ← hu]
    · rw [noticed, ← hu]
      change offerMany s.store (expiredNotices c src) s.mpi = _
      unfold expiredNotices
      split_ifs <;> rfl
    · have frame := withdrawClaim_frame u src c
      rw [noticed, told] at frame
      rw [frame, ← hu]
  · rw [exec_holdLimitExpiry, holdExpiry_of_stopped stopped]

end Sys2Proof.Machine
end

section

/-! PROOFS. What CAU takes: placements, withdrawals and rewrites on a channel (R1, R2, R4, R11, R14, R19 to R21). -/

namespace Sys2Proof.Machine

open Sys2Proof.Safety

/-! Acceptance (R11) -/

theorem accepts_iff (s : State) (src : Source) (c : Channel) :
    accepts s src c = true ↔ s.mode.operating = true ∧ s.store.chanFitted c = true ∧ eligible s.store src c = true := by
  rw [accepts, Bool.and_eq_true, Bool.and_eq_true, and_assoc]

theorem placeClaim_of_accepts {s : State} {src : Source} {c : Channel} (h : accepts s src c = true) :
    placeClaim src c s = changeList c (placedList s src c) { s with bau := { s.bau with given := givenAfter s src c } } := by
  rw [placeClaim, if_pos h]

/-- From `s` to `u` the announcement and the claim notices are those of the change of channel `c`'s list. -/
structure TellsChange (s u : State) (c : Channel) : Prop where
  told : u.inFlight = s.inFlight ++ announcedChange s u c
  unchanged : u.holder c = s.holder c → u.mpi = s.mpi
  noticed : u.mpi = offerMany s.store (claimNotices c (s.cau.get c).claims (u.cau.get c).claims) s.mpi

theorem tellsChange_changeList (s : State) (c : Channel) (new : ClaimList) : TellsChange s (changeList c new s) c where
  told := inFlight_changeList s c new
  unchanged := mpi_changeList_of_holder s c new
  noticed := by rw [mpi_changeList, cau_changeList]

theorem announcedChange_self (s : State) (c : Channel) : announcedChange s s c = [] := if_pos ⟨rfl, rfl⟩

theorem tellsChange_self (s : State) (c : Channel) : TellsChange s s c where
  told := by rw [announcedChange_self, List.append_nil]
  unchanged := fun _ => rfl
  noticed := by rw [claimNotices_of_eq c rfl]; rfl

/-- A change of BAU's given values before it makes no difference. -/
theorem tellsChange_placeClaim (s : State) (src : Source) (c : Channel) : TellsChange s (placeClaim src c s) c := by
  cases h : accepts s src c with
  | false => rw [placeClaim_dropped s src c h]; exact tellsChange_self s c
  | true =>
    rw [placeClaim_of_accepts h]
    obtain ⟨told, unchanged, noticed⟩ := tellsChange_changeList { s with bau := { s.bau with given := givenAfter s src c } } c
      (placedList s src c)
    exact ⟨told, unchanged, noticed⟩

/-! The holder and the effective setpoint (R1, R2, R9) -/

theorem holder_of_empty {s : State} {c : Channel} (h : (s.cau.get c).claims = []) : s.holder c = none := by
  rw [State.holder, h]; rfl

theorem effective_of_empty {s : State} {c : Channel} (h : (s.cau.get c).claims = []) : s.effective c = s.store.rest c := by
  rw [State.effective, h]; rfl

theorem holder_of_cons {s : State} {c : Channel} {x : Claim} {l : List Claim} (h : (s.cau.get c).claims = x :: l) :
    s.holder c = some x.source := by
  rw [State.holder, h]; rfl

theorem effective_of_cons {s : State} {c : Channel} {x : Claim} {l : List Claim} (h : (s.cau.get c).claims = x :: l) :
    s.effective c = x.setpoint := by
  rw [State.effective, h]; rfl

/-! The setpoint of a placement (R84, R99, R106, R113, R136 to R138, R152, R153, R177) -/

theorem floored_eq (st : Store) (b : Bau) (x : Axle) (v : Int) :
    floored st b x v = if b.floor = true ∧ x ≠ .a then max v st.haltP else v := by
  unfold floored
  simp only [Bool.and_eq_true, bne_iff_ne]

theorem placementSetpoint_entry (s : State) (e : Entry) (c : Channel) : placementSetpoint s (.entry e) c = entrySetpoint s e c := rfl

/-- BAU's setpoint of a source that is no entry. -/
theorem placementSetpoint_brk {s : State} {src : Source} {x : Axle} {v : Int} (unlisted : ∀ e, src ≠ .entry e)
    (h : brakeSetpoint s.store s.bau x src = some v) : placementSetpoint s src (.brk x) = .num v := by
  have value : Setpoint.num ((brakeSetpoint s.store s.bau x src).getD 0) = .num v := by rw [h]; rfl
  cases src with
  | entry e => exact absurd rfl (unlisted e)
  | _ => exact value

section EntryKinds

variable {s : State} {e : Entry}

theorem entrySetpoint_halt (h : (entryFields s.store e).kind = .halt) (x : Axle) :
    entrySetpoint s e (.brk x) = .num (max (pressure s.store s.bau x s.bau.demand) s.store.haltP) := by
  simp only [entrySetpoint, h, haltPressure]

theorem entrySetpoint_off (h : (entryFields s.store e).kind = .off) (d : Door) : entrySetpoint s e (.drel d) = .off := by
  simp only [entrySetpoint, h]; rfl

theorem entrySetpoint_centre (h : (entryFields s.store e).kind = .centre) : entrySetpoint s e .str = .num 0 := by
  simp only [entrySetpoint, h]

theorem entrySetpoint_followBase (h : (entryFields s.store e).kind = .followBase) (k : Corner) :
    entrySetpoint s e (.lvl k) = .num s.lku.hLane := by
  simp only [entrySetpoint, h]

/-- HOLD_PRESENT gives the present effective setpoint, on a brake channel under the halt floor (R153). -/
theorem entrySetpoint_holdPresent (h : (entryFields s.store e).kind = .holdPresent) :
    entrySetpoint s e .str = s.effective .str ∧ entrySetpoint s e .jnt = s.effective .jnt ∧
    (∀ k, entrySetpoint s e (.lvl k) = s.effective (.lvl k)) ∧
    ∀ x v, s.effective (.brk x) = .num v → entrySetpoint s e (.brk x) = .num (floored s.store s.bau x v) := by
  simp only [entrySetpoint, h, true_and, implies_true]
  intro x v present
  rw [present]; rfl

theorem entrySetpoint_value {n : Int} (h : (entryFields s.store e).kind = .value n) :
    entrySetpoint s e .str = .num n ∧ entrySetpoint s e .jnt = .num n ∧ (∀ k, entrySetpoint s e (.lvl k) = .num n) ∧
    (∀ x, entrySetpoint s e (.brk x) = .num (floored s.store s.bau x (clamp 0 850 n))) ∧
    ∀ d, entrySetpoint s e (.drel d) = .off := by
  simp only [entrySetpoint, h, true_and, implies_true]
  exact fun d => rfl

end EntryKinds

/-! Claim notices (R16, R17, R21) -/

theorem isDoorSource_iff (src : Source) :
    isDoorSource src = true ↔ src = .doorHalt ∨ src = .doorKneel ∨ ∃ n, src = .doorOpen n := by
  cases src <;> simp [isDoorSource]

theorem channelBit_toNat (c : Channel) : (channelBit c).toNat = 2 ^ chanNo c := by
  rcases c with x | _ | _ | k | d
  · cases x <;> rfl
  · rfl
  · rfl
  · cases k <;> rfl
  · cases d <;> rfl

/-- CLAIM_TAKEN for a door source that becomes holder (R16, R21). -/
def takenNotice (c : Channel) : Option Source → List Notice
  | some x => if isDoorSource x = true then [.claimTaken (channelBit c) x] else []
  | none => []

/-- CLAIM_DISPLACED for a door source that was holder and stands on (R17, R21). -/
def displacedNotice (c : Channel) (new : List Claim) : Option Source → List Notice
  | some x => if isDoorSource x = true ∧ ∃ y ∈ new, y.source = x then [.claimDisplaced (channelBit c) x] else []
  | none => []

theorem claimNotices_of_ne {c : Channel} {old new : List Claim} (h : holderOf new ≠ holderOf old) :
    claimNotices c old new = takenNotice c (holderOf new) ++ displacedNotice c new (holderOf old) := by
  rw [claimNotices, if_neg (Ne.symm h)]
  refine congrArg₂ (· ++ ·) ?_ ?_
  · cases holderOf new <;> rfl
  · cases holderOf old with
    | none => rfl
    | some x => simp only [displacedNotice, Bool.and_eq_true, hasRecord_iff]

/-! Who may claim what (R4, R144, R145, R111) -/

theorem mem_channel_all (c : Channel) : c ∈ Channel.all := by
  rcases c with x | _ | _ | k | d
  · cases x <;> decide
  · decide
  · decide
  · cases k <;> decide
  · cases d <;> decide

theorem eligible_prog_iff (st : Store) (k : Fin 12) (c : Channel) :
    eligible st (.entry (.prog k)) c = true ↔ (st.get (86 + 9 * k.val)).toNat.testBit (chanNo c) = true := by
  change (Channel.all.filter (st.entryTargets k)).contains c = true ↔ _
  rw [List.contains_iff_mem, List.mem_filter, and_iff_right (mem_channel_all c)]
  change (st.get (80 + 9 * k.val + 6)).toNat.testBit (chanNo c) = true ↔ _
  rw [show 80 + 9 * k.val + 6 = 86 + 9 * k.val by omega]

theorem mem_groupList (st : Store) (k : Corner) : k ∈ st.groupList ↔ st.inGroup k = true := by
  have : k ∈ Corner.all := by cases k <;> decide
  rw [Store.groupList, List.mem_filter, and_iff_right this]

/-- F3 claims the kneel group (R145). -/
theorem eligible_f3_iff (st : Store) (c : Channel) :
    eligible st (.entry (.fixed .f3)) c = true ↔ ∃ k, c = .lvl k ∧ st.inGroup k = true := by
  change (st.groupList.map Channel.lvl).contains c = true ↔ _
  rw [List.contains_iff_mem, List.mem_map]
  constructor
  · rintro ⟨k, member, rfl⟩; exact ⟨k, rfl, (mem_groupList st k).1 member⟩
  · rintro ⟨k, rfl, member⟩; exact ⟨k, (mem_groupList st k).2 member, rfl⟩

theorem eligible_f1_iff (st : Store) (c : Channel) : eligible st (.entry (.fixed .f1)) c = true ↔ ∃ n, c = .drel n := by
  change [Channel.drel .d1, .drel .d2, .drel .d3, .drel .d4].contains c = true ↔ _
  rw [List.contains_iff_mem]
  constructor
  · intro member
    simp only [List.mem_cons, List.not_mem_nil, or_false] at member
    rcases member with rfl | rfl | rfl | rfl <;> exact ⟨_, rfl⟩
  · rintro ⟨n, rfl⟩; cases n <;> decide

/-- The halts claim BRK_B and BRK_C (R4, R145). -/
theorem contains_rear_iff (c : Channel) : [Channel.brk .b, .brk .c].contains c = true ↔ c = .brk .b ∨ c = .brk .c := by
  rw [List.contains_iff_mem]; simp

theorem eligible_doorHalt_iff (st : Store) (c : Channel) : eligible st .doorHalt c = true ↔ c = .brk .b ∨ c = .brk .c := by
  rcases c with x | _ | _ | k | d
  · cases x <;> simp [eligible]
  all_goals simp [eligible]

theorem eligible_doorKneel_iff (st : Store) (c : Channel) :
    eligible st .doorKneel c = true ↔ ∃ k, c = .lvl k ∧ st.inGroup k = true := by
  cases c <;> simp [eligible]

theorem eligible_doorOpen_iff (st : Store) (n : Door) (c : Channel) : eligible st (.doorOpen n) c = true ↔ c = .drel n := by
  cases c with
  | drel m => exact beq_iff_eq.trans ⟨fun h => h ▸ rfl, fun h => by cases h; rfl⟩
  | _ => simp [eligible]

/-! Rewrites (R19, R89) -/

theorem rewriteList_eq (st : Store) (c : Channel) (f : Source → Option Setpoint) (cl : ClaimList) (g : Claim → Claim)
    (some_eq : ∀ x sp, f x.source = some sp → g x = { x with setpoint := st.toDomain c sp })
    (none_eq : ∀ x, f x.source = none → g x = x) :
    rewriteList (fun src => (f src).map (st.toDomain c)) cl = { cl with claims := cl.claims.map g } := by
  unfold rewriteList
  congr 2
  funext x
  cases h : f x.source with
  | none => simp only [h, Option.map_none, none_eq x h]
  | some sp => simp only [h, Option.map_some, some_eq x sp h]

theorem holderOf_rewriteList (f : Source → Option Setpoint) (cl : ClaimList) :
    holderOf (rewriteList f cl).claims = holderOf cl.claims := by
  rcases cl with ⟨_ | ⟨x, l⟩, n⟩
  · rfl
  · change some _ = some _
    cases h : f x.source <;> simp only [h]

theorem holder_rewriteChannel (s : State) (c : Channel) (f : Source → Option Setpoint) :
    (rewriteChannel c f s).holder c = s.holder c := (holder_changeList _ _ _).trans (holderOf_rewriteList _ _)

theorem mpi_rewriteChannel (s : State) (c : Channel) (f : Source → Option Setpoint) : (rewriteChannel c f s).mpi = s.mpi :=
  mpi_changeList_of_holder _ _ _ (holder_rewriteChannel s c f)

/-- A rewrite is announced when it moved the effective setpoint; the holder stands (R19, R20). -/
theorem announcedChange_of_holder {s u : State} {c : Channel} (h : u.holder c = s.holder c) :
    announcedChange s u c = if s.effective c = u.effective c then [] else [.channel c (s.holder c) (u.effective c) false] := by
  unfold announcedChange
  rw [h]
  by_cases e : s.effective c = u.effective c
  · rw [if_pos ⟨rfl, e⟩, if_pos e]
  · rw [if_neg (fun both => e both.2), if_neg e, decide_eq_false (fun ne => ne rfl)]

/-- Settles O20. -/
theorem placementsTakenByCau : Obligations.PlacementsTakenByCau := by
  unfold Obligations.PlacementsTakenByCau
  intro s src c t
  refine ⟨fun dropped => ?dropped, fun operating fitted may => ?taken, fun empty => ⟨holder_of_empty empty, effective_of_empty empty⟩,
    fun x l front => ⟨holder_of_cons front, effective_of_cons front⟩, ⟨fun _ => rfl, rfl, rfl, fun _ => rfl, fun _ => rfl⟩,
    fun n => ⟨fun _ => rfl, rfl, rfl, fun _ => ⟨rfl, rfl⟩, fun _ => ⟨rfl, rfl⟩⟩, ?setpoints, ?notices, ?eligible, ?frames⟩
  case dropped =>
    refine placeClaim_dropped s src c ?_
    rw [Bool.eq_false_iff]
    exact mt (accepts_iff s src c).1 dropped
  case taken =>
    refine ⟨placeClaim_cau s src c ((accepts_iff s src c).2 ⟨operating, fitted, may⟩),
      fun d other => placeClaim_cau_of_ne s src c d other, (tellsChange_placeClaim s src c).told⟩
  case setpoints =>
    intro gives floor
    have floor_eq : ∀ x v, floored s.store s.bau x v = floor x v := floored_eq s.store s.bau
    refine ⟨fun x v unlisted given => placementSetpoint_brk unlisted given, rfl, rfl, rfl, rfl, rfl,
      fun k => ⟨rfl, rfl, rfl⟩, fun d => ⟨rfl, rfl⟩, fun e => ?_⟩
    intro kind
    refine ⟨fun h x => entrySetpoint_halt h x, fun h d => entrySetpoint_off h d, fun h => entrySetpoint_centre h,
      fun h k => entrySetpoint_followBase h k, fun h => ?_, fun n h => ?_⟩
    · obtain ⟨str, jnt, lvl, brk⟩ := entrySetpoint_holdPresent h
      exact ⟨str, jnt, lvl, fun x v present => (brk x v present).trans (by rw [floor_eq])⟩
    · obtain ⟨str, jnt, lvl, brk, drel⟩ := entrySetpoint_value h
      exact ⟨str, jnt, lvl, fun x => (brk x).trans (by rw [floor_eq]), fun _ => drel⟩
  case notices =>
    intro noticed
    have tells : ∀ u, TellsChange s u c → noticed u := by
      rintro u ⟨-, unchanged, offered⟩
      refine ⟨unchanged, fun changed => ?_⟩
      rw [offered, claimNotices_of_ne changed]
      change offerMany s.store (takenNotice c (u.holder c) ++ displacedNotice c (u.cau.get c).claims (s.holder c)) s.mpi = _
      refine congrArg (offerMany s.store · s.mpi) (congrArg₂ (· ++ ·) ?_ ?_)
      · cases u.holder c <;> rfl
      · cases s.holder c <;> rfl
    exact ⟨tells t (tellsChange_placeClaim s src c), tells _ (tellsChange_changeList s c _), channelBit_toNat c,
      isDoorSource_iff src⟩
  case eligible =>
    intro may rear
    refine ⟨by cases c <;> exact iff_of_true rfl trivial, ?_, ?_, contains_rear_iff c, eligible_f1_iff s.store c,
      contains_rear_iff c, eligible_f3_iff s.store c, fun k => eligible_prog_iff s.store k c, eligible_doorHalt_iff s.store c,
      eligible_doorKneel_iff s.store c, fun n => eligible_doorOpen_iff s.store n c, ?_, ?_, fun _ => rfl, rfl⟩
    all_goals
      change eligible _ _ _ = true ↔ _
      cases c <;> simp [eligible]
  case frames =>
    intro announced w
    refine ⟨?_, rfl, inFlight_changeList _ _ _, rfl, fun f => ?_, rfl, rfl, fun _ => rfl, fun cs => ⟨rfl, rfl, fun _ => rfl⟩⟩
    · rw [show t = _ from placeClaim_frame s src c]
    · intro u
      refine ⟨congrArg (s.cau.set c) (rewriteList_eq s.store c f _ _ ?_ ?_), holder_rewriteChannel s c f, ?_, ?_⟩
      · intro x sp given; rw [given]
      · intro x unlisted; rw [unlisted]
      · exact (inFlight_changeList _ _ _).trans
          (congrArg (s.inFlight ++ ·) (announcedChange_of_holder (holder_rewriteChannel s c f)))
      · have frame := rewriteChannel_frame s c f
        rw [mpi_rewriteChannel] at frame
        rw [show u = _ from frame]

end Sys2Proof.Machine
end

section

/-! PROOFS. Modes: pairing windows and ready marks, WARM_RESET, initialisation, RECOVER (R42, R173, R175, R179, R182, R184). -/

namespace Sys2Proof.Machine

open Sys2Proof.Safety

/-! Pairing windows and ready marks (R175, R182) -/

theorem markLapse_of_some {x : Lane} {s : State} (h : s.mc.ready.get x ≠ none) :
    markLapse x s = offer (.enterRunLapsed x) { s with mc := { s.mc with ready := s.mc.ready.set x none } } := by
  obtain ⟨ms, marked⟩ := Option.ne_none_iff_exists'.1 h
  rw [markLapse, marked]

theorem markLapse_of_none {x : Lane} {s : State} (h : s.mc.ready.get x = none) : markLapse x s = s := by
  rw [markLapse, h]

theorem exec_readyMarkLapse (x : Lane) (s : State) : exec (.readyMarkLapse x) s = .next (markLapse x s) := rfl

/-- Settles O45. -/
theorem windowsAndMarksRunOut : Obligations.WindowsAndMarksRunOut := by
  unfold Obligations.WindowsAndMarksRunOut
  refine fun s => ⟨rfl, rfl, fun x marked => ?_, fun x clear => ?_⟩
  · rw [exec_readyMarkLapse, markLapse_of_some marked]; rfl
  · rw [exec_readyMarkLapse, markLapse_of_none clear]

theorem pairWindow_of_own {x : Lane} {o : Option Opened} (h : ∀ w, o = some w → w.lane = x) :
    pairWindow x o = (some ⟨x, windowTime⟩, false) := by
  cases o with
  | none => rfl
  | some w => rw [pairWindow, if_pos (h w rfl)]

theorem pairWindow_of_other {x : Lane} {o : Option Opened} {w : Opened} (h : o = some w) (other : w.lane ≠ x) :
    pairWindow x o = (none, true) := by
  rw [h, pairWindow, if_neg other]

/-! WARM_RESET (R184) -/

theorem resetConditions_iff (s : State) : resetConditions s = true ↔ s.mc.atRest = true ∨ s.mode.operating = false := by
  rw [resetConditions, Bool.or_eq_true, Bool.not_eq_true']

theorem ownWarmReset_of_unmet {x : Lane} {s : State} (h : resetConditions s = false) :
    ownWarmReset x s = ({ s with mc := { s.mc with resetWin := none } }, some ⟨.refusedState, []⟩) := by
  simp only [ownWarmReset, h, Bool.not_false, if_true]

theorem ownWarmReset_of_own {x : Lane} {s : State} (h : resetConditions s = true)
    (own : ∀ w, s.mc.resetWin = some w → w.lane = x) :
    ownWarmReset x s = ({ s with mc := { s.mc with resetWin := some ⟨x, windowTime⟩ } }, some ⟨.ok, []⟩) := by
  simp only [ownWarmReset, h, pairWindow_of_own own, Bool.not_true, Bool.false_eq_true, if_false]

theorem ownWarmReset_of_other {x : Lane} {s : State} {w : Opened} (h : resetConditions s = true) (opened : s.mc.resetWin = some w)
    (other : w.lane ≠ x) : ownWarmReset x s = (Machine.warmReset .request s, none) := by
  simp only [ownWarmReset, h, pairWindow_of_other opened other, Bool.not_true, Bool.false_eq_true, if_false, if_true]

theorem exec_warmReset_of_passes {x : Lane} {r : Byte} {s : State} (h : Passes (lanePort x) r lanePorts s) :
    exec (.warmReset (lanePort x) r) s =
      .next (owned (lanePort x) 0x1A (ownWarmReset x (closeTransfer (lanePort x) s))) := by
  refine (congrArg Host.Outcome.next (request_of_passes h _ _)).trans ?_
  rw [laneOfPort_lanePort]

/-- Settles O26. -/
theorem warmResetPaired : Obligations.WarmResetPaired := by
  unfold Obligations.WarmResetPaired
  intro x r s passes p c met
  have conditions : resetConditions c = true ↔ met := resetConditions_iff c
  refine ⟨fun unmet => ?_, fun ready own => ?_, fun ready w opened other => ?_⟩
  · rw [exec_warmReset_of_passes passes, ownWarmReset_of_unmet (Bool.eq_false_iff.2 (mt conditions.1 unmet))]; rfl
  · rw [exec_warmReset_of_passes passes, ownWarmReset_of_own (conditions.2 ready) own]; rfl
  · rw [exec_warmReset_of_passes passes, ownWarmReset_of_other (conditions.2 ready) opened other]; rfl

/-! Initialisation (R173) -/

theorem exec_initialisationComplete_of_powerup {s : State} (h : s.mode = .powerup) :
    exec .initialisationComplete s = .next (complete (enterConfig s)) := by
  change execInitialisationComplete s = _
  rw [execInitialisationComplete, if_pos h]; rfl

theorem exec_initialisationComplete_of_awake {s : State} (h : s.mode ≠ .powerup) : exec .initialisationComplete s = .next s := by
  change execInitialisationComplete s = _
  rw [execInitialisationComplete, if_neg h]; rfl

theorem driverHeldOff_iff (f : Flc) : f.driverHeldOff = true ↔ f.phase = .stopped := beq_iff_eq

/-- Settles O28. -/
theorem initialisationCompletes : Obligations.InitialisationCompletes := by
  unfold Obligations.InitialisationCompletes
  refine ⟨fun s asleep => ⟨enterConfig s, exec_initialisationComplete_of_powerup asleep, rfl, rfl, ?_, rfl⟩,
    fun s => exec_initialisationComplete_of_awake,
    ⟨_, exec_initialisationComplete_of_powerup rfl, ?_⟩, rfl, driverHeldOff_iff⟩
  · rw [← asleep]; rfl
  · decide +kernel

/-! RECOVER (R49, R179) -/

theorem exec_recover_of_passes {p : Port} {r : Byte} {s : State} (h : Passes p r lanePorts s) :
    exec (.recover p r) s = .next (owned p 0x15 (ownRecover (closeTransfer p s))) :=
  congrArg Host.Outcome.next (request_of_passes h _ _)

theorem ownRecover_of_not_degraded {s : State} (h : s.mode ≠ .degraded) : ownRecover s = (s, some ⟨.refusedState, []⟩) := by
  rw [ownRecover, if_pos h]; rfl

theorem ownRecover_of_unmet {s : State} {n : Nat} (h : s.mode = .degraded) (unmet : recoverUnmet (recoverJudged s) = some n) :
    ownRecover s = (complete (recoverJudged s), some ⟨.refusedState, [byte n]⟩) := by
  rw [ownRecover, if_neg (fun ne => ne h), unmet]

theorem ownRecover_of_met {s : State} (h : s.mode = .degraded) (met : recoverUnmet (recoverJudged s) = none) :
    ownRecover s = (complete (setMode .run (recoverJudged s)), some ⟨.ok, []⟩) := by
  rw [ownRecover, if_neg (fun ne => ne h), met]

theorem readmitNode_nodes (n m : Node) (s : State) :
    (readmitNode n s).flc.nodes.get m = if m = n ∧ (s.flc.nodes.get m).state = .lost ∧ (s.flc.nodes.get m).misses = 0
      then { s.flc.nodes.get m with state := .active } else s.flc.nodes.get m := by
  unfold readmitNode
  by_cases own : m = n
  · subst own
    split_ifs with lost both both
    · exact (PerNode_get_set _ _ _ _).trans (if_pos rfl)
    · exact absurd ⟨rfl, lost⟩ both
    · exact absurd both.2 lost
    · rfl
  · simp only [own, false_and, if_false]
    split_ifs
    · exact (PerNode_get_set _ _ _ _).trans (if_neg own)
    · rfl

/-- A node's re-admission touches that node, which comes once in the list (R49). -/
theorem readmit_nodes_of_nodup (n : Node) (l : List Node) (once : l.Nodup) (s : State) :
    (l.foldl (fun s n => readmitNode n s) s).flc.nodes.get n =
      if n ∈ l ∧ (s.flc.nodes.get n).state = .lost ∧ (s.flc.nodes.get n).misses = 0
      then { s.flc.nodes.get n with state := .active } else s.flc.nodes.get n := by
  induction l generalizing s with
  | nil => exact (if_neg (fun both => List.not_mem_nil both.1)).symm
  | cons m l ih =>
    obtain ⟨apart, once⟩ := List.nodup_cons.1 once
    rw [List.foldl_cons, ih once, readmitNode_nodes]
    by_cases own : n = m
    · subst own
      rw [if_neg (fun both => apart both.1)]
      simp only [true_and, List.mem_cons, true_or]
    · simp only [List.mem_cons, own, false_or, false_and, if_false]

theorem mem_node_all (n : Node) : n ∈ Node.all := by
  rcases n with x | _ | _ | k
  · cases x <;> decide
  · decide
  · decide
  · cases k <;> decide

theorem readmit_nodes (n : Node) (s : State) :
    (readmit s).flc.nodes.get n = if (s.flc.nodes.get n).state = .lost ∧ (s.flc.nodes.get n).misses = 0
      then { s.flc.nodes.get n with state := .active } else s.flc.nodes.get n := by
  rw [readmit, readmit_nodes_of_nodup n Node.all (by decide)]
  simp only [mem_node_all, true_and]

theorem setNode_of_moved {n : Node} {r : NodeRec} {s : State} (h : (s.flc.nodes.get n).state ≠ r.state) :
    setNode n r s =
      { s with flc := { s.flc with nodes := s.flc.nodes.set n r }, inFlight := s.inFlight ++ [.node n r.state] } := by
  rw [setNode, if_neg h]

theorem readmitNode_eq (n : Node) (s : State) :
    readmitNode n s = if (s.flc.nodes.get n).state = .lost ∧ (s.flc.nodes.get n).misses = 0
      then { s with
        flc := { s.flc with nodes := s.flc.nodes.set n { s.flc.nodes.get n with state := .active } }
        inFlight := s.inFlight ++ [.node n .active] }
      else s := by
  unfold readmitNode
  split_ifs with lost
  · have moved : (s.flc.nodes.get n).state ≠ .active := by rw [lost.1]; nofun
    exact setNode_of_moved moved
  · rfl

/-! The conditions of RECOVER (R179) -/

theorem classSet_uncorrectable_iff (st : Store) (f : Fu) :
    classSet st f false = true ↔ ∃ k, f.has k = true ∧ st.severity k ≠ .correctable := by
  simp only [classSet, isCorrectable, List.any_eq_true, Bool.and_eq_true, beq_iff_eq, beq_eq_false_iff_ne]
  exact ⟨fun ⟨k, _, set, severe⟩ => ⟨k, set, severe⟩, fun ⟨k, set, severe⟩ => ⟨k, mem_faultKinds k, set, severe⟩⟩

theorem notActive_eq_none_iff (s : State) :
    notActive s = none ↔ ∀ n, s.store.nodeFitted n = true → (s.flc.nodes.get n).state = .active := by
  simp only [notActive, Store.fittedNodes, List.find?_eq_none, List.mem_filter, bne_iff_ne, ne_eq, not_not]
  exact ⟨fun h n fitted => h n ⟨mem_node_all n, fitted⟩, fun h n fitted => h n fitted.2⟩

theorem lanesFresh_iff (s : State) :
    ((s.lv.lanes.a.freshness == .fresh) && (s.lv.lanes.b.freshness == .fresh)) = true ↔
      ∀ x, (s.lv.lanes.get x).freshness = .fresh := by
  rw [Bool.and_eq_true, beq_iff_eq, beq_iff_eq]
  exact ⟨fun ⟨a, b⟩ x => by cases x <;> assumption, fun h => ⟨h .a, h .b⟩⟩

section Conditions

variable {s : State}

theorem recoverUnmet_of_stale (h : ¬ ∀ x, (s.lv.lanes.get x).freshness = .fresh) : recoverUnmet s = some 1 := by
  rw [recoverUnmet, if_pos]
  rw [Bool.not_eq_true', Bool.eq_false_iff]
  exact mt (lanesFresh_iff s).1 h

variable (fresh : ∀ x, (s.lv.lanes.get x).freshness = .fresh)

include fresh in
theorem recoverUnmet_of_fresh :
    recoverUnmet s = if s.fu.capture.isSome then some 2 else if classSet s.store s.fu false then some 3
      else if (notActive s).isSome then some 4 else none := by
  rw [recoverUnmet, (lanesFresh_iff s).2 fresh]; rfl

include fresh in
theorem recoverUnmet_of_captured (full : s.fu.capture ≠ none) : recoverUnmet s = some 2 := by
  rw [recoverUnmet_of_fresh fresh, if_pos (Option.isSome_iff_ne_none.2 full)]

variable (empty : s.fu.capture = none)

include fresh empty in
theorem recoverUnmet_of_serious (serious : ∃ k, s.fu.has k = true ∧ s.store.severity k ≠ .correctable) :
    recoverUnmet s = some 3 := by
  rw [recoverUnmet_of_fresh fresh, empty, (classSet_uncorrectable_iff _ _).2 serious]; rfl

variable (mild : ¬ ∃ k, s.fu.has k = true ∧ s.store.severity k ≠ .correctable)

include fresh empty mild in
theorem recoverUnmet_of_mild : recoverUnmet s = if (notActive s).isSome then some 4 else none := by
  rw [recoverUnmet_of_fresh fresh, empty, Bool.eq_false_iff.2 (mt (classSet_uncorrectable_iff _ _).1 mild)]; rfl

end Conditions

/-- Settles O29. -/
theorem recoverIsJudged : Obligations.RecoverJudged := by
  unfold Obligations.RecoverJudged
  refine ⟨fun p r s passes => ?request, fun s n => readmit_nodes n s, fun s => ?order, fun s => ?conditions⟩
  case request =>
    intro c u
    have judged : recoverJudged c = u := rfl
    refine ⟨fun elsewhere => ?_, fun degraded n unmet => ?_, fun degraded met => ?_⟩
    · rw [exec_recover_of_passes passes, ownRecover_of_not_degraded (s := c) elsewhere]; rfl
    · rw [exec_recover_of_passes passes, ownRecover_of_unmet (s := c) degraded unmet, judged]; rfl
    · rw [exec_recover_of_passes passes, ownRecover_of_met (s := c) degraded met, judged]; rfl
  case order => exact congrArg (fun f => Node.all.foldl f s) (funext₂ fun t n => readmitNode_eq n t)
  case conditions =>
    intro fresh serious active
    refine ⟨recoverUnmet_of_stale, recoverUnmet_of_captured, recoverUnmet_of_serious, fun all empty mild down => ?_,
      fun all empty mild up => ?_⟩
    · rw [recoverUnmet_of_mild all empty mild, if_pos (Option.isSome_iff_ne_none.2 (mt (notActive_eq_none_iff s).1 down))]
    · rw [recoverUnmet_of_mild all empty mild, (notActive_eq_none_iff s).2 up]; rfl

end Sys2Proof.Machine
end

section

/-! PROOFS. ENTER_RUN, the digest and the validation (R181 to R183, R6, R154). -/

namespace Sys2Proof.Machine

open Sys2Proof.Safety

/-! The digest (R181) -/

theorem crc16Go_cons (b : Byte) (l : List Byte) (r : Nat) :
    crc16Go (b :: l) r = crc16Go l (crc16Byte (BitVec.ofNat 16 r) b).toNat := by
  rw [crc16Go]
  split
  · rename_i zero; rw [zero]
  · rename_i n next; rw [next]

theorem crc16Go_eq_foldl (l : List Byte) (r : Nat) : crc16Go l r = l.foldl crc16Byte (BitVec.ofNat 16 r) := by
  induction l generalizing r with
  | nil => rfl
  | cons b l ih => rw [crc16Go_cons, ih, BitVec.ofNat_toNat, BitVec.setWidth_eq]; rfl

/-- The CRC takes each byte after those before it (R181). -/
theorem crc16_append_byte (l : List Byte) (b : Byte) : crc16 (l ++ [b]) = crc16Byte (crc16 l) b := by
  rw [crc16, crc16, crc16Go_eq_foldl, crc16Go_eq_foldl, List.foldl_append]; rfl

/-- The digest runs over the held items from `n` on, in ascending number. -/
theorem digestBytes_eq (st : Store) (fuel n : Nat) :
    st.digestBytes fuel n = ((List.range' n fuel).filter itemHeld).flatMap fun m => byte m :: st.bytes m := by
  induction fuel generalizing n with
  | zero => rfl
  | succ fuel ih =>
    rw [Store.digestBytes, List.range'_succ, ih]
    split_ifs with held
    · rw [List.filter_cons_of_pos held]; rfl
    · rw [List.filter_cons_of_neg held]

theorem digest_eq (st : Store) :
    st.digest = crc16 (((List.range 240).filter (· ≠ 189)).flatMap fun n => BitVec.ofNat 8 n :: st.bytes n) := by
  have held : (List.range' 0 240).filter itemHeld = (List.range 240).filter (· ≠ 189) := by
    rw [← List.range_eq_range']
    refine List.filter_congr fun n listed => ?_
    rw [Bool.eq_iff_iff, itemHeld_iff, decide_eq_true_iff]
    exact and_iff_right (List.mem_range.1 listed)
  rw [Store.digest, digestBytes_eq, held]; rfl

/-! ENTER_RUN (R182, R183) -/

theorem exec_enterRun_of_passes {x : Lane} {r : Byte} {s : State} (h : Passes (lanePort x) r lanePorts s) (digest : Word) :
    exec (.enterRun (lanePort x) r digest) s =
      .next (owned (lanePort x) 0x13 (ownEnterRun x digest (closeTransfer (lanePort x) s))) := by
  refine (congrArg Host.Outcome.next (request_of_passes h _ _)).trans ?_
  rw [laneOfPort_lanePort]

section Judged

variable {x : Lane} {digest : Word} {s : State}

theorem ownEnterRun_of_elsewhere (h : ¬ (s.mode = .config ∨ s.mode = .standby)) :
    ownEnterRun x digest s = (s, some ⟨.refusedState, []⟩) := by
  rw [ownEnterRun, if_neg h]; rfl

variable (here : s.mode = .config ∨ s.mode = .standby)

include here in
theorem ownEnterRun_of_differs (h : s.store.digest ≠ digest) :
    ownEnterRun x digest s = (s, some ⟨.refusedDigest, word s.store.digest.toNat⟩) := by
  rw [ownEnterRun, if_pos here, if_neg h]

include here in
theorem ownEnterRun_of_matches (h : s.store.digest = digest) : ownEnterRun x digest s = matchRun x s := by
  rw [ownEnterRun, if_pos here, if_pos h]

end Judged

section Matched

variable {x : Lane} {s : State}

theorem matchRun_of_first (h : s.mc.ready.get (otherLane x) = none) :
    matchRun x s = ({ s with mc := { s.mc with ready := s.mc.ready.set x (some readyTime) } }, some ⟨.ok, []⟩) := by
  rw [matchRun, h]

theorem matchRun_of_failed {check number : Nat} (h : s.mc.ready.get (otherLane x) ≠ none)
    (failed : validation s = some (check, number)) :
    matchRun x s = ({ s with mc := { s.mc with ready := ⟨none, none⟩ } }, some ⟨.refusedState, [byte check, byte number]⟩) := by
  obtain ⟨ms, marked⟩ := Option.ne_none_iff_exists'.1 h
  rw [matchRun, marked, failed]

theorem matchRun_of_passed (h : s.mc.ready.get (otherLane x) ≠ none) (passed : validation s = none) :
    matchRun x s = (complete (passRun s), some ⟨.ok, []⟩) := by
  obtain ⟨ms, marked⟩ := Option.ne_none_iff_exists'.1 h
  rw [matchRun, marked, passed]

end Matched

/-- The validation leaves no ready mark to keep, so that the mode change finds both clear. -/
theorem ready_passRun (s : State) : (passRun s).mc.ready = ⟨none, none⟩ := readyAfter_clear _ _ _ rfl

/-- Settles O23. -/
theorem enterRunJudged : Obligations.EnterRunJudged := by
  unfold Obligations.EnterRunJudged
  refine ⟨fun x r digest s passes => ?judged, digest_eq, rfl, fun l b => ?crc⟩
  case crc =>
    intro bit
    rw [crc16_append_byte]; rfl
  case judged =>
    intro p c here
    have exec_eq := exec_enterRun_of_passes passes digest
    refine ⟨fun elsewhere => ?_, fun at_home differs => ?_, fun at_home same first => ?_, fun at_home same second =>
      ⟨fun check number failed => ?_, fun passed => ⟨passRun c, ?_, rfl, rfl, ready_passRun c, rfl, rfl, rfl, rfl⟩⟩⟩
    · rw [exec_eq, ownEnterRun_of_elsewhere (s := c) elsewhere]; rfl
    · rw [exec_eq, ownEnterRun_of_differs (s := c) at_home differs]; rfl
    · rw [exec_eq, ownEnterRun_of_matches (s := c) at_home same, matchRun_of_first (s := c) first]; rfl
    · rw [exec_eq, ownEnterRun_of_matches (s := c) at_home same, matchRun_of_failed (s := c) second failed]; rfl
    · rw [exec_eq, ownEnterRun_of_matches (s := c) at_home same, matchRun_of_passed (s := c) second passed]; rfl

/-! The five checks (R183) -/

/-- In a list that rises by number, the first member that fits is the lowest. -/
theorem find?_of_lowest {α : Type} {no : α → Nat} {l : List α} (rising : l.Pairwise fun x y => no x < no y)
    {p : α → Bool} {k : α} (member : k ∈ l) (fits : p k = true) (lowest : ∀ j ∈ l, no j < no k → ¬ p j = true) :
    l.find? p = some k := by
  induction l with
  | nil => exact absurd member List.not_mem_nil
  | cons x l ih =>
    obtain ⟨first, rising⟩ := List.pairwise_cons.1 rising
    rcases List.mem_cons.1 member with rfl | later
    · exact List.find?_cons_of_pos fits
    · rw [List.find?_cons_of_neg (lowest x List.mem_cons_self (first k later))]
      exact ih rising later fun j earlier => lowest j (List.mem_cons_of_mem x earlier)

theorem validation_of_fatal {s : State} {k : FaultKind} (h : fatalStanding s = some k) : validation s = some (1, k.no) := by
  rw [validation, h]

theorem validation_of_notActive {s : State} {n : Node} (sound : fatalStanding s = none) (h : notActive s = some n) :
    validation s = some (2, nodeNo n) := by
  rw [validation, sound, h]

theorem validation_of_overfull {s : State} {c : Channel} (sound : fatalStanding s = none) (up : notActive s = none)
    (h : overfull s = some c) : validation s = some (3, chanNo c) := by
  rw [validation, sound, up, h]

theorem validation_of_badEntry {s : State} {e : Fin 12} (sound : fatalStanding s = none) (up : notActive s = none)
    (room : overfull s = none) (h : badEntry s = some e) : validation s = some (4, e.val) := by
  rw [validation, sound, up, room, h]

theorem validation_of_group {s : State} (sound : fatalStanding s = none) (up : notActive s = none)
    (room : overfull s = none) (fit : badEntry s = none) :
    validation s = if s.store.groupList = [] then some (5, 43) else none := by
  rw [validation, sound, up, room, fit]
  simp only [List.isEmpty_iff]

theorem fatalStanding_iff (s : State) (k : FaultKind) :
    (s.fu.has k && s.store.severity k == .fatal) = true ↔ s.fu.has k = true ∧ s.store.severity k = .fatal := by
  rw [Bool.and_eq_true, beq_iff_eq]

theorem notActive_fits_iff (s : State) (n : Node) :
    ((s.flc.nodes.get n).state != .active) = true ↔ (s.flc.nodes.get n).state ≠ .active := bne_iff_ne

theorem entryRefused_iff (st : Store) (k : Fin 12) :
    entryRefused st k = true ↔ ∃ c, st.entryTargets k c = true ∧ compatible (st.entryKind k) c = false := by
  simp only [entryRefused, List.any_eq_true, Bool.and_eq_true, Bool.not_eq_true']
  exact ⟨fun ⟨c, _, fits⟩ => ⟨c, fits⟩, fun ⟨c, fits⟩ => ⟨c, mem_channel_all c, fits⟩⟩

theorem mem_progEntries (k : Fin 12) : k ∈ progEntries := by revert k; decide

/-- The first fitted node that is not ACTIVE, by number (R183). -/
theorem notActive_of_lowest {s : State} {n : Node} (down : s.store.nodeFitted n = true ∧ (s.flc.nodes.get n).state ≠ .active)
    (lowest : ∀ m, nodeNo m < nodeNo n → ¬ (s.store.nodeFitted m = true ∧ (s.flc.nodes.get m).state ≠ .active)) :
    notActive s = some n := by
  rw [notActive, Store.fittedNodes, List.find?_filter]
  refine find?_of_lowest (no := nodeNo) (by decide) (mem_node_all n) ?_ fun m _ lower fits => lowest m lower ?_
  · simpa using down
  · simpa using fits

/-! The counts of eligible sources (R6) -/

/-- The sources that are no programmable entry. -/
def plainSources : List Source :=
  [.safe, .emerg, .centre, .entry (.fixed .f0), .entry (.fixed .f1), .entry (.fixed .f2), .entry (.fixed .f3), .doorHalt,
    .doorKneel, .doorOpen .d1, .doorOpen .d2, .doorOpen .d3, .doorOpen .d4, .joint, .lane]

/-- How many programmable entries target a channel (R144). -/
def progCount (st : Store) (c : Channel) : Nat := (progEntries.filter fun k => st.entryTargets k c).length

theorem entryTargets_eq (st : Store) (e : Fin 12) (c : Channel) :
    st.entryTargets e c = (st.get (86 + 9 * e.val)).toNat.testBit (chanNo c) := by
  change (st.get (80 + 9 * e.val + 6)).toNat.testBit (chanNo c) = _
  rw [show 80 + 9 * e.val + 6 = 86 + 9 * e.val by omega]

theorem eligible_prog_eq (st : Store) (k : Fin 12) (c : Channel) : eligible st (.entry (.prog k)) c = st.entryTargets k c := by
  rw [Bool.eq_iff_iff, eligible_prog_iff, entryTargets_eq]

theorem allSources_perm : allSources.Perm (plainSources ++ progEntries.map fun k => Source.entry (.prog k)) := by decide

/-- The count of a channel is that of the fixed and group sources, with the programmable entries that target it (R6). -/
theorem eligibleCount_eq (st : Store) (c : Channel) :
    eligibleCount st c = (plainSources.filter fun src => eligible st src c).length + progCount st c := by
  rw [eligibleCount, (allSources_perm.filter _).length_eq, List.filter_append, List.length_append, List.filter_map,
    List.length_map]
  congr 2
  exact List.filter_congr fun k _ => eligible_prog_eq st k c

/-- A level channel of the kneel group has F3 and S_DOOR_KNEEL besides S_SAFE and S_LANE (R4, R111). -/
theorem plainCount_lvl (st : Store) (k : Corner) :
    (plainSources.filter fun src => eligible st src (.lvl k)).length = if st.inGroup k = true then 4 else 2 := by
  cases member : st.inGroup k <;>
    simp [plainSources, eligible, entryFields, fixedFields, mem_groupList, member]

theorem plainCount_brk (st : Store) (x : Axle) :
    (plainSources.filter fun src => eligible st src (.brk x)).length = if x = .a then 3 else 6 := by
  cases x <;> simp [plainSources, eligible, entryFields, fixedFields]

theorem plainCount_str (st : Store) : (plainSources.filter fun src => eligible st src .str).length = 3 := by
  simp [plainSources, eligible, entryFields, fixedFields]

theorem plainCount_jnt (st : Store) : (plainSources.filter fun src => eligible st src .jnt).length = 2 := by
  simp [plainSources, eligible, entryFields, fixedFields]

theorem plainCount_drel (st : Store) (n : Door) : (plainSources.filter fun src => eligible st src (.drel n)).length = 3 := by
  cases n <;> simp [plainSources, eligible, entryFields, fixedFields]

/-! The kinds that suit a class (R152, R154) -/

theorem spKindOf_eq (v : Int) :
    spKindOf v = [SpKind.halt, .off, .centre, .followBase, .holdPresent].getD (v.toNat / 65536)
      (.value (BitVec.ofNat 16 v.toNat).toInt) := by
  unfold spKindOf
  generalize v.toNat / 65536 = code
  match code with
  | 0 | 1 | 2 | 3 | 4 => rfl
  | n + 5 => rfl

theorem entryKind_eq (st : Store) (e : Fin 12) : st.entryKind e = spKindOf (st.get (88 + 9 * e.val)) := by
  change spKindOf (st.get (80 + 9 * e.val + 8)) = _
  rw [show 80 + 9 * e.val + 8 = 88 + 9 * e.val by omega]

/-- Settles O24: each check finds the lowest number that fails it, and the next is judged when none does. -/
theorem validationChecks : Obligations.ValidationChecks := by
  unfold Obligations.ValidationChecks
  intro s fatal down full unfit
  have standing : ∀ k, (s.fu.has k && s.store.severity k == .fatal) = true ↔ fatal k := fatalStanding_iff s
  have overfull_iff : ∀ c, decide (8 < eligibleCount s.store c) = true ↔ full c := fun c => decide_eq_true_iff
  have refused : ∀ e, entryRefused s.store e = true ↔ unfit e := entryRefused_iff s.store
  refine ⟨fun k set lowest => validation_of_fatal ?_, fun sound => ?_, ?counts, ?kinds, ?codes⟩
  · exact find?_of_lowest (no := FaultKind.no) (by decide) (mem_faultKinds k) ((standing k).2 set)
      fun j _ lower => mt (standing j).1 (lowest j lower)
  · have check1 : fatalStanding s = none := List.find?_eq_none.2 fun k _ => mt (standing k).1 (sound k)
    refine ⟨fun n off lowest => validation_of_notActive check1 (notActive_of_lowest off lowest), fun up => ?_⟩
    have check2 : notActive s = none := (notActive_eq_none_iff s).2 fun n fitted => by
      by_contra off; exact up n ⟨fitted, off⟩
    refine ⟨fun c crowded lowest => validation_of_overfull check1 check2 ?_, fun room => ?_⟩
    · exact find?_of_lowest (no := chanNo) (by decide) (mem_channel_all c) ((overfull_iff c).2 crowded)
        fun d _ lower => mt (overfull_iff d).1 (lowest d lower)
    have check3 : overfull s = none := List.find?_eq_none.2 fun c _ => mt (overfull_iff c).1 (room c)
    refine ⟨fun e bad lowest => validation_of_badEntry check1 check2 check3 ?_, fun fit => validation_of_group check1 check2 check3 ?_⟩
    · exact find?_of_lowest (no := fun k : Fin 12 => k.val) (by decide) (mem_progEntries e) ((refused e).2 bad)
        fun f _ lower => mt (refused f).1 (lowest f lower)
    · exact List.find?_eq_none.2 fun e _ => mt (refused e).1 (fit e)
  case counts =>
    intro progs
    have progs_eq : ∀ c, progCount s.store c = progs c := fun c =>
      congrArg List.length (List.filter_congr fun k _ => entryTargets_eq s.store k c)
    have count : ∀ c n, (plainSources.filter fun src => eligible s.store src c).length = n →
        eligibleCount s.store c = n + progs c := fun c n plain => by rw [eligibleCount_eq, plain, progs_eq]
    exact ⟨count _ _ (plainCount_brk s.store .a), count _ _ (plainCount_brk s.store .b), count _ _ (plainCount_brk s.store .c),
      count _ _ (plainCount_str s.store), count _ _ (plainCount_jnt s.store), fun k => count _ _ (plainCount_lvl s.store k),
      fun n => count _ _ (plainCount_drel s.store n), fun e c => entryTargets_eq s.store e c⟩
  case kinds =>
    intro suits door c
    refine ⟨?_, ?_, ?_, ?_, ?_, fun n => ?_⟩
    all_goals
      change compatible _ c = true ↔ _
      cases c <;> simp [compatible, door]
  case codes =>
    intro e v kinds
    rw [entryKind_eq, spKindOf_eq]

end Sys2Proof.Machine
end

section

/-! PROOFS. What a configuration write stores (R73, R94, R111, R129, R144, R157, R180). -/

namespace Sys2Proof.Machine

open Sys2Proof.Safety

/-! A write of two bytes (R180) -/

section Write

variable {st : Store} {n : Nat} {v0 v1 v2 : Byte}

theorem bind_of_plain (high : 21 ≤ n) (alone : n ≠ 26 ∧ n ≠ 27 ∧ n ≠ 32 ∧ n ≠ 33) (x : Int) : st.bind n x = st.put n x := by
  obtain ⟨v1, v2, base, max⟩ := alone
  rw [Store.bind, if_neg (by omega), if_neg (by omega), if_neg v1, if_neg v2, if_neg base, if_neg max]

theorem writtenValue_of_unsigned (h : n ≠ 24 ∧ n ≠ 25 ∧ n ≠ 44) : writtenValue n v0 v1 = ((v0 ++ v1).toNat : Int) := by
  obtain ⟨gain, lead, kneel⟩ := h
  have : itemSigned n = false := by simp [itemSigned, gain, lead, kneel]
  rw [writtenValue, this]; rfl

theorem write_of_two_bytes (h : ¬ itemIsKind n = true) :
    st.write n v0 v1 v2 = (itemStored n (writtenValue n v0 v1)).map (st.bind n) := if_neg h

theorem not_itemIsKind (h : n < 80 ∨ 188 ≤ n) : ¬ itemIsKind n = true := by
  rw [itemIsKind_iff]; rintro ⟨k, rfl⟩; omega

theorem not_itemIsKind_field (k : Fin 12) {f : Nat} (h : f < 8) : ¬ itemIsKind (80 + 9 * k.val + f) = true := by
  rw [itemIsKind_iff]; rintro ⟨j, e⟩; omega

/-- A write to an item that has no bound from another and no sign stores what the item makes of its value. -/
theorem write_of_stored {x : Int} (two : ¬ itemIsKind n = true) (high : 21 ≤ n)
    (alone : n ≠ 26 ∧ n ≠ 27 ∧ n ≠ 32 ∧ n ≠ 33) (unsigned : n ≠ 24 ∧ n ≠ 25 ∧ n ≠ 44)
    (stored : itemStored n ((v0 ++ v1).toNat : Int) = some x) : st.write n v0 v1 v2 = some (st.put n x) := by
  rw [write_of_two_bytes two, writtenValue_of_unsigned unsigned, stored, Option.map_some, bind_of_plain high alone]

end Write

/-- Items 21 to 79 that are clamped to a range of their own and no more. -/
def clampedItem (n : Nat) : Bool := 21 ≤ n && n < 80 && !([26, 27, 32, 33, 35, 36, 43, 49, 54, 59, 75].contains n)

theorem clampedItem_iff (n : Nat) : clampedItem n = true ↔
    (21 ≤ n ∧ n < 80) ∧ n ≠ 26 ∧ n ≠ 27 ∧ n ≠ 32 ∧ n ≠ 33 ∧ n ≠ 35 ∧ n ≠ 36 ∧ n ≠ 43 ∧ n ≠ 49 ∧ n ≠ 54 ∧ n ≠ 59 ∧ n ≠ 75 := by
  simp [clampedItem]

theorem itemStored_of_clamped {n : Nat} (h : clampedItem n = true) (v : Int) :
    itemStored n v = some (clamp (midRange n).1 (midRange n).2 v) := by
  obtain ⟨⟨low, high⟩, -, -, -, -, steer, joint, group, debounce, action, cycle, ack⟩ := (clampedItem_iff n).1 h
  rw [itemStored, if_neg (by omega), if_neg (by omega), if_neg group, if_neg debounce, if_neg action, if_neg cycle, if_neg ack,
    if_pos high]

theorem write_of_clamped {st : Store} {n : Nat} {v0 v1 v2 : Byte} (h : clampedItem n = true) :
    st.write n v0 v1 v2 = some (st.put n (clamp (midRange n).1 (midRange n).2 (writtenValue n v0 v1))) := by
  obtain ⟨⟨low, high⟩, first, second, base, max, -⟩ := (clampedItem_iff n).1 h
  rw [write_of_two_bytes (not_itemIsKind (.inl high)), itemStored_of_clamped h, Option.map_some,
    bind_of_plain low ⟨first, second, base, max⟩]

/-! The sets of values (3.1, R129) -/

/-- A member is nearest, or midway the larger, just when the midpoints say so. -/
theorem nearest_iff (v m m' : Int) :
    (|v - m| < |v - m'| ∨ |v - m| = |v - m'| ∧ m' ≤ m) ↔ (m < m' → 2 * v < m + m') ∧ (m' < m → m + m' ≤ 2 * v) := by
  rcases abs_cases (v - m) with ⟨e, _⟩ | ⟨e, _⟩ <;> rcases abs_cases (v - m') with ⟨e', _⟩ | ⟨e', _⟩ <;> rw [e, e'] <;>
    constructor <;> omega

theorem nearestTf_nearest (v : Int) : nearestTf v ∈ [(2 : Int), 5, 10, 20] ∧
    ∀ m' ∈ [(2 : Int), 5, 10, 20], |v - nearestTf v| < |v - m'| ∨ |v - nearestTf v| = |v - m'| ∧ m' ≤ nearestTf v := by
  simp only [nearest_iff, nearestTf, List.forall_mem_cons]
  split_ifs <;> simp <;> omega

theorem nearestTack_nearest (v : Int) : nearestTack v ∈ [(1 : Int), 4, 16, 64] ∧
    ∀ m' ∈ [(1 : Int), 4, 16, 64], |v - nearestTack v| < |v - m'| ∨ |v - nearestTack v| = |v - m'| ∧ m' ≤ nearestTack v := by
  simp only [nearest_iff, nearestTack, List.forall_mem_cons]
  split_ifs <;> simp <;> omega

/-! The kneel group (R111) -/

/-- How many bits of `bits` stand from `i` on below `j`. -/
def bitsBetween (bits i j : Nat) : Nat := ((List.range j).filter fun m => decide (i ≤ m) && bits.testBit m).length

theorem bitsBetween_of_le {bits i j : Nat} (h : j ≤ i) : bitsBetween bits i j = 0 := by
  rw [bitsBetween, List.length_eq_zero_iff, List.filter_eq_nil_iff]
  intro m below
  have := List.mem_range.1 below
  simp only [Bool.and_eq_true, decide_eq_true_eq]
  omega

theorem bitsBetween_succ (bits i j : Nat) :
    bitsBetween bits i (j + 1) = bitsBetween bits i j + if i ≤ j ∧ bits.testBit j = true then 1 else 0 := by
  rw [bitsBetween, List.range_succ, List.filter_append, List.length_append]
  congr 1
  split_ifs with set
  · simp [set]
  · rw [List.length_eq_zero_iff, List.filter_eq_nil_iff]
    intro m only
    rw [List.mem_singleton.1 only, Bool.and_eq_true, decide_eq_true_iff]; exact set

theorem bitsBetween_step {bits i j : Nat} (h : i < j) :
    bitsBetween bits i j = (if bits.testBit i = true then 1 else 0) + bitsBetween bits (i + 1) j := by
  induction j with
  | zero => omega
  | succ j ih =>
    rw [bitsBetween_succ, bitsBetween_succ]
    by_cases last : i = j
    · subst last
      have out : ¬ (i + 1 ≤ i ∧ bits.testBit i = true) := fun both => by omega
      rw [bitsBetween_of_le le_rfl, bitsBetween_of_le (Nat.le_succ i), if_neg out]
      simp only [le_refl, true_and, zero_add, add_zero]
    · rw [ih (by omega), add_assoc]
      congr 2
      simp only [show i ≤ j ↔ i + 1 ≤ j by omega]

/-- The chosen bits lie from `i` on. -/
theorem lowestBits_dvd (bits fuel i k : Nat) : 2 ^ i ∣ lowestBits bits fuel i k := by
  induction fuel generalizing i k with
  | zero => exact Nat.dvd_zero _
  | succ fuel ih =>
    cases k with
    | zero => exact Nat.dvd_zero _
    | succ k =>
      have up : 2 ^ i ∣ 2 ^ (i + 1) := ⟨2, pow_succ 2 i⟩
      unfold lowestBits
      split_ifs
      · exact Nat.dvd_add dvd_rfl (up.trans (ih _ _))
      · exact up.trans (ih _ _)

/-- A single bit below a number that begins above it. -/
theorem testBit_two_pow_add {i x : Nat} (h : 2 ^ (i + 1) ∣ x) (j : Nat) :
    (2 ^ i + x).testBit j = (decide (j = i) || x.testBit j) := by
  obtain ⟨y, rfl⟩ := h
  have below : 2 ^ i < 2 ^ (i + 1) := Nat.pow_lt_pow_right (by norm_num) (Nat.lt_succ_self i)
  have whole := Nat.testBit_two_pow_mul_add y (Nat.two_pow_pos (i + 1)) j
  rw [Nat.add_zero] at whole
  rw [Nat.add_comm, Nat.testBit_two_pow_mul_add y below, whole, Nat.testBit_two_pow, Nat.zero_testBit]
  by_cases low : j < i + 1
  · rw [if_pos low, if_pos low, Bool.or_false]
    exact decide_eq_decide.2 eq_comm
  · rw [if_neg low, if_neg low, decide_eq_false (by omega), Bool.false_or]

/-- The chosen bits are the `k` lowest of those looked at. -/
theorem testBit_lowestBits (bits fuel i k j : Nat) :
    (lowestBits bits fuel i k).testBit j = true ↔
      i ≤ j ∧ j < i + fuel ∧ bits.testBit j = true ∧ bitsBetween bits i j < k := by
  induction fuel generalizing i k with
  | zero => exact iff_of_false (by simp [lowestBits]) fun ⟨_, _, _⟩ => by omega
  | succ fuel ih =>
    cases k with
    | zero => exact iff_of_false (by simp [lowestBits]) fun ⟨_, _, _, few⟩ => by omega
    | succ k =>
      rcases Nat.lt_trichotomy j i with below | rfl | above
      · have : (lowestBits bits (fuel + 1) i (k + 1)).testBit j = false := by
          obtain ⟨y, hy⟩ := lowestBits_dvd bits (fuel + 1) i (k + 1)
          rw [hy, ← Nat.add_zero (2 ^ i * y), Nat.testBit_two_pow_mul_add y (Nat.two_pow_pos i), if_pos below, Nat.zero_testBit]
        exact iff_of_false (by rw [this]; exact Bool.false_ne_true) fun ⟨_, _⟩ => by omega
      · have none_below := bitsBetween_of_le (bits := bits) (le_refl j)
        unfold lowestBits
        split_ifs with set
        · rw [testBit_two_pow_add (lowestBits_dvd _ _ _ _), decide_eq_true rfl, Bool.true_or]
          exact iff_of_true rfl ⟨le_rfl, by omega, set, by omega⟩
        · exact iff_of_false (fun h => by have := ((ih _ _).1 h).1; omega) fun ⟨_, _, h, _⟩ => set h
      · have step := bitsBetween_step (bits := bits) above
        unfold lowestBits
        split_ifs with set
        · rw [testBit_two_pow_add (lowestBits_dvd _ _ _ _), decide_eq_false (by omega), Bool.false_or, ih, step, if_pos set]
          exact and_congr (by omega) (and_congr (by omega) (and_congr_right' (by omega)))
        · rw [ih, step, if_neg set]
          exact and_congr (by omega) (and_congr (by omega) (and_congr_right' (by omega)))

/-- The group that a write stores: the four lowest corners of the set (R111). -/
theorem kneelGroup_testBit (bits i : Nat) : (lowestBits bits 6 5 4).testBit i = true ↔ 5 ≤ i ∧ i ≤ 10 ∧ bits.testBit i = true ∧
    ((List.range i).filter fun j => decide (5 ≤ j) && bits.testBit j).length < 4 := by
  rw [testBit_lowestBits]
  change _ ∧ i < 11 ∧ _ ∧ bitsBetween bits 5 i < 4 ↔ _ ∧ _ ∧ _ ∧ bitsBetween bits 5 i < 4
  rw [show i < 11 ↔ i ≤ 10 by omega]

/-! Masks (R144, R191) -/

theorem maskStored_eq (m v : Nat) : maskStored m (v : Int) = ((v &&& m : Nat) : Int) := by
  rw [maskStored, Int.toNat_natCast]

/-- Ports A and B stay in the routing sets of the first two notices (R191). -/
theorem routing_eq (a : Nat) : (a &&& 7) + (3 - (a &&& 3)) = (a &&& 7) ||| 3 := by
  have seven : a &&& 7 = a % 8 := Nat.and_two_pow_sub_one_eq_mod a 3
  have three : a &&& 3 = a % 8 % 4 := by
    rw [show a &&& 3 = a % 4 from Nat.and_two_pow_sub_one_eq_mod a 2]; omega
  rw [seven, three]
  have := Nat.mod_lt a (show 0 < 8 by norm_num)
  generalize a % 8 = m at this ⊢
  interval_cases m <;> rfl

theorem and_three_le (a : Nat) : a &&& 3 ≤ 3 := Nat.and_le_right

/-! The items that are no number (R111, R144, R157, R191) -/

theorem itemStored_of_flag {n : Nat} (h : n = 35 ∨ n = 36 ∨ n = 230 ∨ (209 ≤ n ∧ n ≤ 229 ∧ n ≠ 211 ∧ n ≠ 221)) (v : Int) :
    itemStored n v = some (if v = 0 then 0 else 1) := by
  by_cases fitting : n = 35 ∨ n = 36
  · rw [itemStored, if_neg (by omega), if_pos fitting]; rfl
  · rw [itemStored, if_neg (by omega), if_neg fitting, if_neg (by omega), if_neg (by omega), if_neg (by omega), if_neg (by omega),
      if_neg (by omega), if_neg (by omega), if_neg (by omega), if_neg (by omega), if_neg (by omega), if_neg (by omega),
      if_pos (by omega)]; rfl

theorem itemStored_of_severity {n : Nat} (low : 188 ≤ n) (high : n ≤ 208) (v : Int) :
    itemStored n v = some (if n = 190 ∨ n = 200 then 2 else clamp 0 2 v) := by
  rw [itemStored, if_neg (by omega), if_neg (by omega), if_neg (by omega), if_neg (by omega), if_neg (by omega), if_neg (by omega),
    if_neg (by omega), if_neg (by omega), if_neg (by omega)]
  by_cases fixed : n = 190 ∨ n = 200
  · rw [if_pos fixed, if_pos fixed]
  · rw [if_neg fixed, if_neg fixed, if_pos (by omega)]; rfl

theorem itemStored_of_routing {n : Nat} (low : 231 ≤ n) (v : Nat) :
    itemStored n (v : Int) = some (if n = 231 ∨ n = 232 then (((v &&& 7) ||| 3 : Nat) : Int) else ((v &&& 7 : Nat) : Int)) := by
  rw [itemStored, if_neg (by omega), if_neg (by omega), if_neg (by omega), if_neg (by omega), if_neg (by omega), if_neg (by omega),
    if_neg (by omega), if_neg (by omega), if_neg (by omega), if_neg (by omega), if_neg (by omega), if_neg (by omega),
    if_neg (by omega), maskStored_eq, maskStored_eq]
  by_cases kept : n = 231 ∨ n = 232
  · have := and_three_le v
    rw [if_pos (by omega), if_pos kept, ← routing_eq]
    congr 1; omega
  · rw [if_neg (by omega), if_neg kept]

/-- A field of an entry but its setpoint kind (R144). -/
theorem write_entry {st : Store} {v0 v1 v2 : Byte} (k : Fin 12) {f : Nat} (h : f < 8) :
    st.write (80 + 9 * k.val + f) v0 v1 v2 =
      (entryStored f ((v0 ++ v1).toNat : Int)).map (st.put (80 + 9 * k.val + f)) := by
  have := k.isLt
  have field : itemStored (80 + 9 * k.val + f) ((v0 ++ v1).toNat : Int) = entryStored f ((v0 ++ v1).toNat : Int) := by
    rw [itemStored, if_neg (by omega), if_neg (by omega), if_neg (by omega), if_neg (by omega), if_neg (by omega), if_neg (by omega),
      if_neg (by omega), if_neg (by omega), if_pos (by omega), show (80 + 9 * k.val + f - 80) % 9 = f by omega]
  rw [write_of_two_bytes (not_itemIsKind_field k h), writtenValue_of_unsigned (by omega), field]
  congr 1
  exact funext fun x => bind_of_plain (by omega) (by omega) x

/-- A code of an entry that is refused above `m` (R144). -/
theorem map_code {α : Type} (v : Nat) (m : Int) (g : Int → α) :
    (if 0 ≤ (v : Int) ∧ (v : Int) ≤ m then some (v : Int) else none).map g =
      if (v : Int) ≤ m then some (g v) else none := by
  have natural : 0 ≤ (v : Int) := Int.natCast_nonneg v
  by_cases named : (v : Int) ≤ m
  · rw [if_pos ⟨natural, named⟩, if_pos named]; rfl
  · rw [if_neg (fun both => named both.2), if_neg named]; rfl

theorem write_kind {st : Store} {v0 v1 v2 : Byte} (k : Fin 12) :
    st.write (80 + 9 * k.val + 8) v0 v1 v2 =
      if v0.toNat < 5 then some (st.put (80 + 9 * k.val + 8) (65536 * v0.toNat))
      else if v0.toNat = 5 then some (st.put (80 + 9 * k.val + 8) (65536 * 5 + (v1 ++ v2).toNat)) else none := by
  rw [Store.write, if_pos ((itemIsKind_iff _).2 ⟨k, rfl⟩), kindStored]
  split_ifs
  · rw [Option.map_some, Nat.cast_mul, Nat.cast_ofNat, Int.mul_comm]
  · rw [Option.map_some]; norm_num
  · rfl

end Sys2Proof.Machine
end

section

/-! PROOFS. CONFIG_WRITE: its judgement, and what the block that owns the item does (R180, R73, R94, R95, R111, R129). -/

namespace Sys2Proof.Machine

open Sys2Proof.Safety

/-! The judgement (R180) -/

theorem exec_configWrite_of_passes {p : Port} {r : Byte} {s : State} (h : Passes p r lanePorts s) (item v0 v1 v2 : Byte) :
    exec (.configWrite p r item v0 v1 v2) s = .next (owned p 0x11 (ownConfigWrite item v0 v1 v2 (closeTransfer p s))) :=
  congrArg Host.Outcome.next (request_of_passes h _ _)

section Judged

variable {item v0 v1 v2 : Byte} {s : State}

theorem ownConfigWrite_of_not_config (h : s.mode ≠ .config) : ownConfigWrite item v0 v1 v2 s = (s, some ⟨.refusedState, []⟩) := by
  rw [ownConfigWrite, if_pos h]; rfl

variable (config : s.mode = .config)

include config in
theorem ownConfigWrite_of_unknown (h : itemHeld item.toNat = false) :
    ownConfigWrite item v0 v1 v2 s = (s, some ⟨.refusedArg, []⟩) := by
  rw [ownConfigWrite, if_neg (fun ne => ne config), h]; rfl

variable (held : itemHeld item.toNat = true)

include config held in
theorem ownConfigWrite_of_locked (h : s.mc.locked = true) : ownConfigWrite item v0 v1 v2 s = (s, some ⟨.refusedLocked, []⟩) := by
  rw [ownConfigWrite, if_neg (fun ne => ne config), held, h]; rfl

variable (unlocked : s.mc.locked = false)

include config held unlocked in
theorem ownConfigWrite_of_refused (h : s.store.write item.toNat v0 v1 v2 = none) :
    ownConfigWrite item v0 v1 v2 s = (s, some ⟨.refusedArg, []⟩) := by
  rw [ownConfigWrite, if_neg (fun ne => ne config), held, unlocked, h]; rfl

include config held unlocked in
theorem ownConfigWrite_of_taken {st : Store} (h : s.store.write item.toNat v0 v1 v2 = some st) :
    ownConfigWrite item v0 v1 v2 s = (complete (takeWrite item.toNat st s), some ⟨.ok, st.bytes item.toNat⟩) := by
  rw [ownConfigWrite, if_neg (fun ne => ne config), held, unlocked, h]; rfl

end Judged

/-- From `s` to `t` a block acted on a write: the store, its lock, clear ready marks and LV stand, and calm announcements were
added. -/
structure ActsOnWrite (s t : State) : Prop where
  store : t.store = s.store
  locked : t.mc.locked = s.mc.locked
  ready : s.mc.ready = ⟨none, none⟩ → t.mc.ready = ⟨none, none⟩
  lv : t.lv = s.lv
  calm : CalmState s → CalmState t

theorem ActsOnWrite.trans {s t u : State} (h : ActsOnWrite s t) (g : ActsOnWrite t u) : ActsOnWrite s u :=
  ⟨g.store.trans h.store, g.locked.trans h.locked, fun marks => g.ready (h.ready marks), g.lv.trans h.lv,
    fun calm => g.calm (h.calm calm)⟩

theorem Mild.actsOnWrite {s t : State} (h : Mild s t) : ActsOnWrite s t :=
  ⟨h.same.store, h.same.locked, h.same.ready, h.same.lv, h.calmState⟩

theorem calmState_append {s : State} {evs : List Ev} (h : evs.all calm = true) (before : CalmState s) {t : State}
    (added : t.inFlight = s.inFlight ++ evs) : CalmState t := by
  unfold CalmState at before ⊢
  rw [added, List.all_append, before, h]; rfl

theorem setNode_actsOnWrite (n : Node) (r : NodeRec) (s : State) : ActsOnWrite s (setNode n r s) :=
  ⟨rfl, rfl, id, rfl, fun before => calmState_append (by split <;> rfl) before rfl⟩

theorem refitNode_actsOnWrite (n : Node) (s : State) : ActsOnWrite s (refitNode n s) :=
  (withFlc_mild s { s.flc with left := if s.store.nodeFitted n then s.flc.left else s.flc.left.filter (· ≠ n) } rfl).actsOnWrite.trans
    (setNode_actsOnWrite n nodeReset _)

theorem formDoors_actsOnWrite (d : Dsv) (s : State) : ActsOnWrite s (formDoors d s) := by
  unfold formDoors
  split
  · exact ⟨rfl, rfl, id, rfl, id⟩
  · exact ⟨rfl, rfl, id, rfl, fun before => calmState_append (evs := [_]) rfl before rfl⟩

theorem bauLoad_mild (x : Axle) (l : Int) (s : State) : Mild s (bauLoad x l s) := by
  unfold bauLoad; split
  · exact .refl s
  · exact bauWith_mild _ _

theorem emptyHistory_mild (s : State) : Mild s (emptyHistory s) :=
  Mild.after (announce_mild _ _ rfl) (.of_eq rfl rfl rfl rfl rfl rfl rfl rfl rfl)

theorem angleCleared_mild (s : State) : Mild s (angleCleared s) := by
  unfold angleCleared; split
  · exact .refl s
  · exact setCentring_mild _ _

theorem blockActs_actsOnWrite (n : Nat) (old : Store) (s : State) : ActsOnWrite s (blockActs n old s) := by
  have same : ActsOnWrite s s := (Mild.refl s).actsOnWrite
  unfold blockActs
  split_ifs
  · exact same
  · exact (bauLoad_mild _ _ s).actsOnWrite
  · exact ⟨rfl, rfl, id, rfl, id⟩
  · exact ⟨rfl, rfl, id, rfl, id⟩
  · exact same
  · exact refitNode_actsOnWrite _ s
  · exact same
  · exact ((refitNode_actsOnWrite _ s).trans (emptyHistory_mild _).actsOnWrite).trans (angleCleared_mild _).actsOnWrite
  · exact (formHLane_mild s _).actsOnWrite
  · exact same
  · exact formDoors_actsOnWrite _ s
  · exact same
  · exact (emptyHistory_mild s).actsOnWrite
  · exact same

theorem mem_restEvents_iff (s : State) (new : Store) (e : Ev) : e ∈ restEvents s new ↔ ∃ c,
    effectiveOf new c (s.cau.get c).claims ≠ s.effective c ∧
      e = .channel c (s.holder c) (effectiveOf new c (s.cau.get c).claims) false := by
  rw [restEvents, List.mem_flatMap]
  constructor
  · rintro ⟨c, -, member⟩
    split_ifs at member with same
    · exact absurd member List.not_mem_nil
    · exact ⟨c, same, List.mem_singleton.1 member⟩
  · rintro ⟨c, moved, rfl⟩
    exact ⟨c, mem_channel_all c, by rw [if_neg moved]; exact List.mem_singleton_self _⟩

theorem restEvents_calm (s : State) (new : Store) : (restEvents s new).all calm = true := by
  rw [List.all_eq_true]
  intro e member
  obtain ⟨c, -, rfl⟩ := (mem_restEvents_iff s new e).1 member
  rfl

/-- A taken write, with what it announces taken: the store is written, the marks are clear, the lock and LV stand (R180). -/
theorem complete_takeWrite (n : Nat) (st : Store) {s : State} (quiet : s.inFlight = []) :
    (complete (takeWrite n st s)).store = st ∧ (complete (takeWrite n st s)).mc.locked = s.mc.locked ∧
    (complete (takeWrite n st s)).mc.ready = ⟨none, none⟩ ∧ (complete (takeWrite n st s)).lv = s.lv := by
  have acts := blockActs_actsOnWrite n s.store (storeTaken st s)
  have told : CalmState (storeTaken st s) := calmState_append (restEvents_calm s st) (calmState_of_empty quiet) rfl
  rw [takeWrite_eq]
  have same := complete_calm _ (acts.calm told)
  exact ⟨same.store.trans acts.store, same.locked.trans acts.locked, same.ready (acts.ready rfl), same.lv.trans acts.lv⟩

/-! What the owning block does (R73, R94, R95, R111, R129) -/

section Acts

variable {s : State} {old : Store}

theorem axleOfItem_eq (x : Axle) {i : Nat} (h : i < 7) : axleOfItem (axleBase x + i) = x := by
  unfold axleOfItem
  cases x
  · rw [if_pos (by change 0 + i < 7; omega)]
  · rw [if_neg (by change ¬ 7 + i < 7; omega), if_pos (by change 7 + i < 14; omega)]
  · rw [if_neg (by change ¬ 14 + i < 7; omega), if_neg (by change ¬ 14 + i < 14; omega)]

theorem axleBase_add_lt (x : Axle) {i : Nat} (h : i < 7) : axleBase x + i < 21 := by
  cases x <;> simp only [axleBase] <;> omega

theorem blockActs_axle (x : Axle) {i : Nat} (h : i < 7) : blockActs (axleBase x + i) old s =
    if s.store.get (axleBase x + i) = old.get (axleBase x + i) then s
    else bauLoad x (clamp (s.store.lMin x) (s.store.lMax x) (s.store.nA x)) s := by
  rw [blockActs, if_pos (axleBase_add_lt x h), axleOfItem_eq x h]; rfl

theorem bauLoad_eq (x : Axle) (l : Int) : bauLoad x l s =
    if s.bau.load.get x = l then s else bauRecompute { s with bau := { s.bau with load := s.bau.load.set x l } } := rfl

theorem PerAxle_set_get {α : Type} (t : PerAxle α) (x : Axle) : t.set x (t.get x) = t := by cases x <;> rfl

theorem load_bauLoad (x : Axle) (l : Int) : (bauLoad x l s).bau.load = s.bau.load.set x l := by
  rw [bauLoad_eq]
  split_ifs with same
  · rw [← same, PerAxle_set_get]
  · rw [bauRecompute_bau]

/-- The items whose write no block acts on. -/
theorem blockActs_of_other {n : Nat} (high : 21 ≤ n) (other : n ∉ [28, 32, 33, 35, 36, 37, 38, 39, 48, 59]) :
    blockActs n old s = s := by
  simp only [List.mem_cons, List.not_mem_nil, or_false, not_or] at other
  obtain ⟨limit, base, max, steer, joint, up, down, fast, doors, cycle⟩ := other
  rw [blockActs, if_neg (by omega), if_neg limit, if_neg (by omega), if_neg steer, if_neg joint, if_neg (by omega),
    if_neg doors, if_neg cycle]

theorem blockActs_unchanged {n : Nat} (h : n = 35 ∨ n = 36 ∨ n = 48 ∨ n = 59) (same : ¬ s.store.get n ≠ old.get n) :
    blockActs n old s = s := by
  have same := not_not.1 same
  rcases h with rfl | rfl | rfl | rfl <;> exact if_pos same

theorem blockActs_steerFitted (h : s.store.get 35 ≠ old.get 35) : blockActs 35 old s = refitNode .str s := if_neg h

theorem blockActs_jointFitted (h : s.store.get 36 ≠ old.get 36) :
    blockActs 36 old s = angleCleared (emptyHistory (refitNode .jnt s)) := if_neg h

theorem blockActs_doorCount (h : s.store.get 48 ≠ old.get 48) : blockActs 48 old s = dsvFitting s := if_neg h

theorem blockActs_cycle (h : s.store.get 59 ≠ old.get 59) : blockActs 59 old s = emptyHistory s := if_neg h

theorem blockActs_level {n : Nat} (h : n = 37 ∨ n = 38 ∨ n = 39) : blockActs n old s = formHLane s.lku s := by
  rcases h with rfl | rfl | rfl <;> rfl

theorem lku_rewriteChannels (cs : List Channel) (f : Channel → Source → Option Setpoint) (s : State) :
    (rewriteChannels cs f s).lku = s.lku :=
  rewriteChannels_induction (fun t => t.lku = s.lku) f (fun _ _ h => h) cs s rfl

theorem lku_formHLane (l : Lku) : (formHLane l s).lku = { l with hLane := hLaneOf s.store l } := by
  unfold formHLane
  split_ifs with same
  · rw [same]
  · rw [lku_rewriteChannels]

theorem angleCleared_eq : angleCleared s =
    if s.store.get 36 = 0 then setCentring { s.sju.centring with angle := false } s else s := by
  unfold angleCleared
  by_cases fitted : s.store.get 36 = 0
  · rw [if_pos fitted]
    exact if_neg fun h => (get_ne_zero_iff s.store 36).1 h fitted
  · rw [if_neg fitted]
    exact if_pos ((get_ne_zero_iff s.store 36).2 fitted)

end Acts

/-- Settles O22. -/
theorem configWriteJudged : Obligations.ConfigWriteJudged := by
  unfold Obligations.ConfigWriteJudged
  refine ⟨fun p r item v0 v1 v2 s passes => ?judged, mem_restEvents_iff, fun st n m x wf => st.get_put n m x wf,
    fun st v0 v1 v2 => ?stored, fun s old => ?acts⟩
  case judged =>
    intro refused held
    have exec_eq := exec_configWrite_of_passes passes item v0 v1 v2
    have listed : itemHeld item.toNat = true ↔ held := itemHeld_iff _
    generalize hc : closeTransfer p s = c at exec_eq
    have mode : c.mode = s.mode := by rw [← hc]; rfl
    have lock : c.mc.locked = s.mc.locked := by rw [← hc]; rfl
    have store : c.store = s.store := by rw [← hc]; rfl
    have refuses : ∀ res, ownConfigWrite item v0 v1 v2 c = (c, some ⟨res, []⟩) → refused res := fun res h => by
      change exec _ s = .next (answer p 0x11 ⟨res, []⟩ (closeTransfer p s))
      rw [exec_eq, h, hc]; rfl
    refine ⟨fun elsewhere => refuses _ (ownConfigWrite_of_not_config (by rwa [mode])),
      fun config unknown => refuses _ (ownConfigWrite_of_unknown (mode.trans config) (Bool.eq_false_iff.2 (mt listed.1 unknown))),
      fun config known locked => refuses _ (ownConfigWrite_of_locked (mode.trans config) (listed.2 known) (lock.trans locked)),
      fun config known unlocked refusal => refuses _ (ownConfigWrite_of_refused (mode.trans config) (listed.2 known)
        (lock.trans unlocked) (by rw [store]; exact refusal)),
      fun config known unlocked nothing st written => ⟨complete (takeWrite item.toNat st c), ?_, ?_⟩⟩
    · rw [exec_eq, ownConfigWrite_of_taken (mode.trans config) (listed.2 known) (lock.trans unlocked) (by rw [store]; exact written)]
      rfl
    · obtain ⟨written', locked, marks, lanes⟩ := complete_takeWrite item.toNat st (s := c) (by rw [← hc]; exact nothing)
      refine ⟨written', (locked.trans lock).trans unlocked, marks, lanes.trans (by rw [← hc]; rfl), ?_⟩
      rw [← hc]; rfl
  case stored =>
    intro v stores
    have put : ∀ {n : Nat} {x : Int}, ¬ itemIsKind n = true → 21 ≤ n → n ≠ 26 ∧ n ≠ 27 ∧ n ≠ 32 ∧ n ≠ 33 →
        n ≠ 24 ∧ n ≠ 25 ∧ n ≠ 44 → itemStored n v = some x → stores n x := fun two high alone unsigned stored =>
      write_of_stored two high alone unsigned stored
    have field : ∀ (k : Fin 12) {f : Nat}, f < 8 → ∀ {x : Int}, entryStored f v = some x → stores (80 + 9 * k.val + f) x :=
      fun k f low x stored => (write_entry k low).trans (by rw [stored]; rfl)
    refine ⟨?ranges, ?signed, ?axles, ?low, ?high, ?second, rfl, rfl, rfl, ?sets, ?group, ?flags, ?addresses, ?severities, ?zeros,
      ?routings, ?entries⟩
    case ranges =>
      intro i member
      have kind : i = (54, 0, 2) ∨ clampedItem i.1 = true ∧ midRange i.1 = i.2 ∧ itemSigned i.1 = false := by
        revert i; decide
      rcases kind with rfl | ⟨clamped, range, unsigned⟩
      · rfl
      · refine (write_of_clamped clamped).trans ?_
        rw [range, writtenValue, unsigned]; rfl
    case signed =>
      intro i member
      simp only [List.mem_cons, List.not_mem_nil, or_false] at member
      rcases member with rfl | rfl | rfl <;> rfl
    case axles => intro x; cases x <;> exact ⟨rfl, rfl, rfl, rfl, rfl, rfl, rfl⟩
    case low => exact fun below => congrArg some (if_pos below)
    case high => exact fun above => congrArg some (if_neg (not_lt.2 above))
    case second =>
      change some (if st.get 26 < clamp 10 1200 v then _ else _) = some _
      split_ifs <;> rfl
    case sets =>
      obtain ⟨tf_listed, tf_nearest⟩ := nearestTf_nearest v
      obtain ⟨tack_listed, tack_nearest⟩ := nearestTack_nearest v
      intro i member
      simp only [List.mem_cons, List.not_mem_nil, or_false] at member
      rcases member with rfl | rfl
      · exact ⟨nearestTf v, tf_listed, rfl, tf_nearest⟩
      · exact ⟨nearestTack v, tack_listed, rfl, tack_nearest⟩
    case group => exact ⟨lowestBits v.toNat 6 5 4, rfl, kneelGroup_testBit v.toNat⟩
    case flags =>
      exact fun n flag => put (not_itemIsKind (by omega)) (by omega) (by omega) (by omega) (itemStored_of_flag flag v)
    case addresses =>
      intro n low high
      interval_cases n <;> rfl
    case severities =>
      exact fun n low high named => put (not_itemIsKind (by omega)) (by omega) (by omega) (by omega)
        (itemStored_of_severity low high v)
    case zeros => rintro n (rfl | rfl) <;> rfl
    case routings =>
      exact fun n low high => put (not_itemIsKind (by omega)) (by omega) (by omega) (by omega)
        (itemStored_of_routing low (v0 ++ v1).toNat)
    case entries =>
      intro k b
      refine ⟨?_, ?_, field k (f := 2) (by norm_num) rfl, field k (f := 3) (by norm_num) rfl, field k (f := 4) (by norm_num) rfl,
        field k (f := 5) (by norm_num) rfl, field k (f := 6) (by norm_num) rfl, field k (f := 7) (by norm_num) rfl, write_kind k⟩
      · exact (write_entry k (f := 0) (by norm_num)).trans (map_code (v0 ++ v1).toNat 6 _)
      · exact (write_entry k (f := 1) (by norm_num)).trans (map_code (v0 ++ v1).toNat 3 _)
  case acts =>
    intro acts changed
    have level : ∀ n, n = 37 ∨ n = 38 ∨ n = 39 → acts n = formHLane s.lku s := fun n h => blockActs_level h
    refine ⟨fun x i low => ⟨fun same => ?_, fun moved => ?_⟩, rfl, ?_, fun n fitting same => blockActs_unchanged fitting same,
      ⟨fun moved => blockActs_steerFitted moved, fun moved => ?_⟩, fun moved => blockActs_cycle moved,
      fun n h => (congrArg State.lku (level n h)).trans (lku_formHLane _), fun moved => blockActs_doorCount moved,
      fun x i low moved => ?_, level, fun n high other => blockActs_of_other high other⟩
    · exact (blockActs_axle x low).trans (if_pos (not_not.1 same))
    · exact (congrArg (fun t => t.bau.load) ((blockActs_axle x low).trans (if_neg moved))).trans (load_bauLoad x _)
    · rintro n (rfl | rfl) <;> rfl
    · exact (blockActs_jointFitted moved).trans angleCleared_eq
    · exact (blockActs_axle x low).trans (if_neg moved)

end Sys2Proof.Machine
end

section

/-! PROOFS. MODE_REQUEST and what the blocks do with a mode change (R22, R30, R40, R55, R56, R70, R75, R77, R102, R106, R126,
R149, R173 to R178). -/

namespace Sys2Proof.Machine

open Sys2Proof.Safety

/-! MODE_REQUEST, row by row (R174, R175, R176) -/

theorem exec_modeRequest_of_passes {x : Lane} {r : Byte} {s : State} (h : Passes (lanePort x) r lanePorts s) (code : Byte) :
    exec (.modeRequest (lanePort x) r code) s =
      .next (owned (lanePort x) 0x14 (ownModeRequest x code (closeTransfer (lanePort x) s))) := by
  refine (congrArg Host.Outcome.next (request_of_passes h _ _)).trans ?_
  rw [laneOfPort_lanePort]

theorem Mode.ofCode_code (m : Mode) : Mode.ofCode m.code = some m := by cases m <;> rfl

theorem Mode.ofCode_of_high {n : Nat} (h : 6 < n) : Mode.ofCode n = none := by
  obtain ⟨k, rfl⟩ := Nat.exists_eq_add_of_lt h
  rw [show 6 + k + 1 = k + 7 by omega]; rfl

section Rows

variable (x : Lane) {code : Byte} {s : State}

theorem ownModeRequest_of_unnamed (h : 6 < code.toNat) : ownModeRequest x code s = (s, some ⟨.refusedArg, []⟩) := by
  rw [ownModeRequest, Mode.ofCode_of_high h]; rfl

theorem ownModeRequest_of_unasked (h : code = 0 ∨ code = 3 ∨ code = 4 ∨ code = 5) :
    ownModeRequest x code s = (s, some ⟨.ok, []⟩) := by
  rcases h with rfl | rfl | rfl | rfl <;> rfl

theorem ownModeRequest_service : ownModeRequest x 2 s =
    if s.mode = .service then (s, some ⟨.ok, []⟩)
    else if s.mode = .config then (complete (setMode .service s), some ⟨.ok, []⟩) else (s, some ⟨.refusedState, []⟩) := rfl

theorem ownModeRequest_config : ownModeRequest x 1 s =
    if s.mode = .config then (s, some ⟨.ok, []⟩)
    else if s.mode = .service then (complete (setMode .config s), some ⟨.ok, []⟩) else (s, some ⟨.refusedState, []⟩) := rfl

theorem ownModeRequest_standby : ownModeRequest x 6 s =
    if s.mode = .standby then (s, some ⟨.ok, []⟩)
    else if s.mode = .run ∨ s.mode = .degraded then requestStandby x s else (s, some ⟨.refusedState, []⟩) := rfl

/-- The mode in force is answered OK. -/
theorem ownModeRequest_of_current (h : code.toNat = s.mode.code) : ownModeRequest x code s = (s, some ⟨.ok, []⟩) := by
  rw [ownModeRequest, h, Mode.ofCode_code]
  cases mode : s.mode <;> rfl

end Rows

theorem standbyConditions_iff (s : State) : standbyConditions s = true ↔
    s.mc.atRest = true ∧ (∀ n, s.store.doorFitted n = true → s.mc.doors.get n = false) ∧ s.mc.kneel = .normal := by
  simp only [standbyConditions, Bool.and_eq_true, List.all_eq_true, Bool.not_eq_true', beq_iff_eq, and_assoc]
  refine and_congr_right' (and_congr_left' ⟨fun secured n fitted => ?_, fun secured n _ => ?_⟩)
  · have := secured n (mem_door_all n)
    rwa [fitted, Bool.true_and] at this
  · cases fitted : s.store.doorFitted n with
    | false => rfl
    | true => rw [secured n fitted]; rfl

section Standby

variable {x : Lane} {s : State}

theorem requestStandby_of_unmet (h : standbyConditions s = false) :
    requestStandby x s = ({ s with mc := { s.mc with standbyWin := none } }, some ⟨.refusedState, []⟩) := by
  simp only [requestStandby, h, Bool.not_false, if_true]

theorem requestStandby_of_own (h : standbyConditions s = true) (own : ∀ w, s.mc.standbyWin = some w → w.lane = x) :
    requestStandby x s = ({ s with mc := { s.mc with standbyWin := some ⟨x, windowTime⟩ } }, some ⟨.ok, []⟩) := by
  simp only [requestStandby, h, pairWindow_of_own own, Bool.not_true, Bool.false_eq_true, if_false]

theorem requestStandby_of_other {w : Opened} (h : standbyConditions s = true) (opened : s.mc.standbyWin = some w)
    (other : w.lane ≠ x) : requestStandby x s =
      (complete (setMode .standby { s with mc := { s.mc with standbyWin := none } }), some ⟨.ok, []⟩) := by
  simp only [requestStandby, h, pairWindow_of_other opened other, Bool.not_true, Bool.false_eq_true, if_false, if_true]

end Standby

/-! A mode change (R173, R175) -/

theorem resetWinAfter_eq (new : Mode) (rest : Bool) (w : Option Opened) : resetWinAfter new rest w =
    if ((new = .run ∨ new = .degraded) ∨ new = .safeStop) ∧ rest = false then none else w := by
  unfold resetWinAfter
  cases new <;> cases rest <;> rfl

/-! What the blocks do (R22, R30, R40, R42, R55, R56) -/

theorem clearsLists_iff (m : Mode) : clearsLists m = true ↔ m = .config ∨ m = .service ∨ m = .standby := by
  cases m <;> simp [clearsLists]

section Blocks

variable {prev new : Mode} {s : State}

theorem lvMode_of_standby (h : new = .standby) : lvMode prev new s = { s with lv := lvReset } := if_pos h

theorem lvMode_of_entry (h : new = .run ∧ (prev = .config ∨ prev = .standby)) :
    lvMode prev new s = { s with lv := lvEntered s.store s.lv } := by
  rw [lvMode, if_neg (by rw [h.1]; nofun), if_pos h]

theorem lvMode_of_other (standby : new ≠ .standby) (entry : ¬ (new = .run ∧ (prev = .config ∨ prev = .standby))) :
    lvMode prev new s = s := by
  rw [lvMode, if_neg standby, if_neg entry]

theorem flcMode_of_standby (h : new = .standby) : flcMode prev new s = withFlc { s.flc with
      phase := .shutdown s.store.fittedNodes false
      timer := none
      inRound := false
      left := []
      roundPending := false } s := if_pos h

theorem flcMode_of_wakening (h : prev = .standby) (run : new = .run) :
    flcMode prev new s = withFlc { s.flc with phase := .shutdown [] true } s := by
  rw [flcMode, if_neg (by rw [run]; nofun), if_pos ⟨h, run⟩]

theorem flcMode_of_start (h : prev = .powerup) (config : new = .config) :
    flcMode prev new s = withFlc (linkStarted s.store s.flc) s := by
  rw [flcMode, if_neg (by rw [config]; nofun), if_neg (by rw [h]; nofun), if_pos h]

theorem flcMode_of_other (standby : new ≠ .standby) (asleep : prev ≠ .standby) (powerup : prev ≠ .powerup)
    (service : prev ≠ .service) : flcMode prev new s = s := by
  rw [flcMode, if_neg standby, if_neg (fun both => asleep both.1), if_neg powerup, if_neg service]

theorem bau_bauMode : (bauMode prev new s).bau = { s.bau with
    mode := new
    load := if new = .run ∧ (prev = .config ∨ prev = .standby) then .of (nominalLoad s.store) else s.bau.load
    samples := if new = .standby then .of fun _ => none else s.bau.samples
    saturated := (bauMode prev new s).bau.saturated } := by
  unfold bauMode
  rw [bauRecompute_bau]

theorem sjuMode_of_entry (h : new = .run ∧ (prev = .config ∨ prev = .standby)) : sjuMode prev new s =
    centre (sjuEnter { s with sju := { s.sju with centring := { s.sju.centring with mode := false } } }) := by
  obtain ⟨run, from_rest⟩ := h
  rw [sjuMode, if_pos run, if_pos from_rest]

theorem sjuMode_of_return (run : new = .run) (entry : ¬ (new = .run ∧ (prev = .config ∨ prev = .standby))) :
    sjuMode prev new s = centre { s with sju := { s.sju with centring := { s.sju.centring with mode := false } } } := by
  rw [sjuMode, if_pos run, if_neg fun from_rest => entry ⟨run, from_rest⟩]

theorem sjuMode_of_other (h : new ≠ .run) :
    sjuMode prev new s = setCentring { s.sju.centring with mode := new == .degraded } s := if_neg h

theorem ictMode_of_standby (h : new = .standby) :
    ictMode new s = judgeEntries Entry.all { s with ict := { s.ict with mode := new, demand := 0, emerg := false } } := by
  rw [ictMode, if_pos h, if_pos h]

theorem ictMode_of_other (h : new ≠ .standby) :
    ictMode new s = judgeEntries Entry.all { s with ict := { s.ict with mode := new } } := by
  rw [ictMode, if_neg h, if_neg h]

theorem mcMode_of_safeStop (h : new = .safeStop) :
    mcMode new s = placeClaims .safe (nodeChannels ++ if s.mc.atRest then [] else doorChannels) s := if_pos h

theorem mcMode_of_other (h : new ≠ .safeStop) : mcMode new s = s := if_neg h

theorem mcAtRest_of_not_safeStop {b : Bool} (h : s.mode ≠ .safeStop) :
    mcAtRest b s = { s with mc := { s.mc with atRest := b } } := if_neg fun both => h both.1

theorem mcAtRest_of_waiting {b : Bool} (h : entryWaits s = true) :
    mcAtRest b s = { s with mc := { s.mc with atRest := b } } :=
  if_neg fun both => by rw [h] at both; cases both.2

theorem mcAtRest_of_safeStop {b : Bool} (h : s.mode = .safeStop) (taken : entryWaits s = false) :
    mcAtRest b s = if b = true then withdrawClaims .safe doorChannels { s with mc := { s.mc with atRest := b } }
      else placeClaims .safe doorChannels { s with mc := { s.mc with atRest := b } } := if_pos ⟨h, taken⟩

end Blocks

/-- Settles O25. -/
theorem modeRequestJudged : Obligations.ModeRequestJudged := by
  unfold Obligations.ModeRequestJudged
  refine ⟨fun x r code s passes => ?request, fun new s => ?change, fun prev new s => ?blocks⟩
  case request =>
    intro p c gives met
    have gives_of : ∀ {res : Result} {t : State}, ownModeRequest x code c = (t, some ⟨res, []⟩) → gives res t :=
      fun h => by
        change exec (.modeRequest (lanePort x) r code) s = _
        rw [exec_modeRequest_of_passes passes, h]; rfl
    have mode : c.mode = s.mode := rfl
    have conditions : standbyConditions c = true ↔ met := standbyConditions_iff c
    refine ⟨fun unnamed => gives_of (ownModeRequest_of_unnamed x unnamed), fun unasked => gives_of (ownModeRequest_of_unasked x unasked),
      fun current => gives_of (ownModeRequest_of_current x current), fun named config => gives_of ?_,
      fun named elsewhere other => gives_of ?_, fun named service => gives_of ?_, fun named elsewhere other => gives_of ?_,
      fun named rest => gives_of ?_, fun named running => ⟨fun unmet => gives_of ?_, fun ready own => gives_of ?_,
      fun ready w opened other => gives_of ?_⟩⟩ <;> subst named
    · rw [ownModeRequest_service, mode, config]; rfl
    · rw [ownModeRequest_service, mode, if_neg other, if_neg elsewhere]
    · rw [ownModeRequest_config, mode, service]; rfl
    · rw [ownModeRequest_config, mode, if_neg elsewhere, if_neg other]
    · rw [ownModeRequest_standby, mode]
      rcases rest with h | h | h <;> rw [h] <;> rfl
    all_goals
      have awake : s.mode ≠ .standby := by
        rcases running with h | h <;> rw [h] <;> nofun
      rw [ownModeRequest_standby, mode, if_neg awake, if_pos running]
    · rw [requestStandby_of_unmet (Bool.eq_false_iff.2 (mt conditions.1 unmet))]; rfl
    · rw [requestStandby_of_own (conditions.2 ready) own]; rfl
    · rw [requestStandby_of_other (conditions.2 ready) opened other]; rfl
  case change =>
    intro inRun
    rw [setMode, mcEnter, resetWinAfter_eq]; rfl
  case blocks =>
    intro cleared linked rested entry doors sp0 lane0
    have cleared_eq : (if clearsLists new then clearLists s else s) = cleared := by
      simp only [clearsLists_iff]; rfl
    refine ⟨?taken, rfl, rfl, rfl, rfl, mem_clearEvents s, lvMode_of_standby, lvMode_of_entry, lvMode_of_other,
      flcMode_of_standby, flcMode_of_wakening, flcMode_of_start, flcMode_of_other, rfl, ?bau, sjuMode_of_entry, sjuMode_of_return,
      sjuMode_of_other, ?lku, ictMode_of_other, ictMode_of_standby, fun stopped => mcMode_of_safeStop stopped,
      fun elsewhere => mcMode_of_other elsewhere, ?doorClaims⟩
    case taken =>
      change takeMode prev new s = _
      rw [takeMode, cleared_eq]
    case bau =>
      have all := bau_bauMode (prev := prev) (new := new) (s := s)
      exact ⟨by rw [all], by rw [all]; rfl, by rw [all], by rw [all], by rw [all]⟩
    case lku =>
      have all : (lkuMode new s).lku = _ := lku_formHLane _
      exact ⟨congrArg Lku.mode all, congrArg Lku.corners all⟩
    case doorClaims =>
      intro b u
      exact ⟨fun elsewhere => mcAtRest_of_not_safeStop elsewhere,
        fun _ waits => mcAtRest_of_waiting ((entryWaits_iff s).2 waits),
        fun stopped taken => mcAtRest_of_safeStop stopped (Bool.eq_false_iff.2 fun waits => by
          obtain ⟨m, listed⟩ := (entryWaits_iff s).1 waits
          exact taken m listed)⟩

end Sys2Proof.Machine
end

section

/-! PROOFS. What a warm reset and a power-on reset leave (R22, R40, R42, R58, R59, R71, R92, R109, R127, R142, R155, R172, R184,
R185, R194). -/

namespace Sys2Proof.Machine

open Sys2Proof.Safety

theorem exec_rstnWarmReset_of_awake {s : State} (h : s.mode ≠ .powerup) :
    exec .rstnWarmReset s = .next (Machine.warmReset .pin s) := by
  change execRstnWarmReset s = _
  rw [execRstnWarmReset, if_neg h]; rfl

theorem exec_rstnWarmReset_of_powerup {s : State} (h : s.mode = .powerup) : exec .rstnWarmReset s = .next s := by
  change execRstnWarmReset s = _
  rw [execRstnWarmReset, if_pos h]; rfl

/-- The fitted nodes after BRK_A (R43). -/
def laterNodes (st : Store) : List Node := st.fittedNodes.tail

theorem fittedNodes_eq (st : Store) : st.fittedNodes = .brk .a :: laterNodes st := by
  obtain ⟨rest, first⟩ := fittedNodes_head st
  rw [laterNodes, first]; rfl

/-- No self-test runs on after a warm reset (R58). -/
theorem testAfterWarm_ne_running (t : SelfTest) : (testAfterWarm t).result ≠ .running := by
  unfold testAfterWarm
  split_ifs with running
  · nofun
  · exact running

theorem testLive_warmStart (cause : Cause) (s : State) : (warmStart cause s).flc.testLive = false := by
  change (false || (testAfterWarm s.flc.test).result == .running) = false
  rw [Bool.false_or, beq_eq_false_iff_ne]
  exact testAfterWarm_ne_running _

/-- The first command of the link after a warm reset is BRK_A's rest value (R42, R44). -/
theorem pollTxn_warmStart (cause : Cause) (s : State) : pollTxn (warmStart cause s) (.brk .a) =
    ⟨.brk .a, s.store.nodeAddr (.brk .a), .set, s.store.haltP, s.store.window, none⟩ := by
  have no_echo : pollsEcho (warmStart cause s).flc (.brk .a) = false := by
    rw [pollsEcho, testLive_warmStart]; rfl
  rw [pollTxn, no_echo]; rfl

/-- A warm reset, the first poll written out. -/
theorem warmReset_polled (cause : Cause) (s : State) : Machine.warmReset cause s = { warmStart cause s with
    flc := { (warmStart cause s).flc with
      left := laterNodes s.store
      txn := some ⟨.brk .a, s.store.nodeAddr (.brk .a), .set, s.store.haltP, s.store.window, none⟩ } } := by
  rw [warmReset_eq, pollNext_of_ne_str (warmStart cause s) (.brk .a) (laterNodes s.store) (fittedNodes_eq s.store) nofun,
    pollTxn_warmStart]

theorem mpiReset_get (m : PerPort PortState) (p : Port) : (mpiReset m).get p = portReset (abandon (m.get p).transfer) := by
  cases p <;> rfl

/-- Settles O27. -/
theorem resetsTaken : Obligations.ResetsTaken := by
  unfold Obligations.ResetsTaken
  refine ⟨fun s => exec_rstnWarmReset_of_awake, fun s => exec_rstnWarmReset_of_powerup, fun cause s => ?warm,
    fun s => ⟨powerOn s, rfl, ?power⟩⟩
  case warm =>
    intro t
    have polled : t = _ := warmReset_polled cause s
    clear_value t
    subst polled
    refine ⟨rfl, rfl, rfl, rfl, rfl, rfl, rfl, rfl, rfl, cauReset_get, rfl, rfl, rfl, fun p => ?_, rfl, rfl, rfl, rfl,
      PerDoor_get_of _, PerDoor_get_of _, PerNode_get_of _, rfl, rfl, rfl, rfl, rfl, rfl, rfl, rfl, fittedNodes_eq s.store, rfl,
      testLive_warmStart cause s, rfl, rfl, rfl, rfl, rfl, rfl, rfl, rfl, rfl, rfl⟩
    have port : (mpiReset s.mpi).get p = portReset (abandon (s.mpi.get p).transfer) := mpiReset_get s.mpi p
    change ((mpiReset s.mpi).get p).queue = [] ∧ ((mpiReset s.mpi).get p).lost = false ∧
      ((mpiReset s.mpi).get p).answer = _ ∧ ((mpiReset s.mpi).get p).transfer = _
    rw [port]
    exact ⟨rfl, rfl, rfl, by cases (s.mpi.get p).transfer <;> rfl⟩
  case power =>
    have ports : mpiReset s.mpi = .of fun p => ⟨⟨0x00, .ok, List.replicate 8 0⟩, [], false, match (s.mpi.get p).transfer with
        | .active _ => .abandoned
        | u => u⟩ := by
      refine congrArg PerPort.of (funext fun p => ?_)
      cases (s.mpi.get p).transfer <;> rfl
    rw [powerOn, ports] <;> rfl

end Sys2Proof.Machine
end

section

/-! PROOFS. A detection (R156 to R166). -/

namespace Sys2Proof.Machine

open Sys2Proof.Safety

/-! Severity and class (R157, R164, R165) -/

theorem isCorrectable_iff (st : Store) (k : FaultKind) : isCorrectable st k = true ↔ st.severity k = .correctable := beq_iff_eq

theorem classSet_iff (st : Store) (f : Fu) (b : Bool) :
    classSet st f b = true ↔ ∃ k, f.has k = true ∧ isCorrectable st k = b := by
  simp only [classSet, List.any_eq_true, Bool.and_eq_true, beq_iff_eq]
  exact ⟨fun ⟨k, _, fits⟩ => ⟨k, fits⟩, fun ⟨k, fits⟩ => ⟨k, mem_faultKinds k, fits⟩⟩

theorem classSet_correctable_iff (st : Store) (f : Fu) :
    classSet st f true = true ↔ ∃ k, f.has k = true ∧ st.severity k = .correctable := by
  simp only [classSet_iff, isCorrectable_iff]

theorem captures_iff {st : Store} {f : Fu} {k : FaultKind} :
    captures st f k = true ↔ st.severity k ≠ .correctable ∧ f.capture = none := by
  rw [captures, Bool.and_eq_true, Bool.not_eq_true', isCorrectable_eq_false_iff, Option.isNone_iff_eq_none]

theorem findsFull_iff {st : Store} {f : Fu} {k : FaultKind} :
    findsFull st f k = true ↔ st.severity k ≠ .correctable ∧ f.capture ≠ none := by
  rw [findsFull, Bool.and_eq_true, Bool.not_eq_true', isCorrectable_eq_false_iff, Option.isSome_iff_ne_none]

/-- A promoted kind is of severity DEGRADE, which is uncorrectable already. -/
theorem promoted_iff {st : Store} {f : Fu} {m : Mode} {k : FaultKind} : promoted st f m k = true ↔
    f.capture ≠ none ∧ st.promote = true ∧ st.severity k = .degrade ∧ m.operating = true := by
  simp only [promoted, Bool.and_eq_true, findsFull_iff, beq_iff_eq, and_assoc]
  constructor
  · rintro ⟨-, full, rest⟩; exact ⟨full, rest⟩
  · rintro ⟨full, promote, degrade, operating⟩
    exact ⟨by rw [degrade]; nofun, full, promote, degrade, operating⟩

theorem appliedSeverity_eq (st : Store) (f : Fu) (m : Mode) (k : FaultKind) : appliedSeverity st f m k =
    if f.capture ≠ none ∧ st.promote = true ∧ st.severity k = .degrade ∧ m.operating = true then .fatal
    else st.severity k := by
  simp only [appliedSeverity, promoted_iff]

theorem modeAfter_correctable (m : Mode) : modeAfter .correctable m = m := by cases m <;> rfl

theorem modeAfter_degrade {m : Mode} (h : m ≠ .run) : modeAfter .degrade m = m := by
  cases m with
  | run => exact absurd rfl h
  | _ => rfl

theorem modeAfter_fatal {m : Mode} (run : m ≠ .run) (degraded : m ≠ .degraded) (service : m ≠ .service) :
    modeAfter .fatal m = m := by
  cases m with
  | run => exact absurd rfl run
  | degraded => exact absurd rfl degraded
  | service => exact absurd rfl service
  | _ => rfl

/-! Status bits (R158, R189) -/

theorem all_getElem?_no (k : FaultKind) : FaultKind.all[k.no]? = some k := by cases k <;> rfl

theorem faultKind_no_inj {j k : FaultKind} (h : j.no = k.no) : j = k := by
  have := all_getElem?_no j
  rw [h, all_getElem?_no] at this
  exact (Option.some.inj this).symm

theorem faultKind_no_lt (k : FaultKind) : k.no < 21 := by cases k <;> decide

theorem kindBit_toNat (k : FaultKind) : (kindBit k).toNat = 2 ^ k.no := by cases k <;> rfl

theorem kindBit_getLsbD (j k : FaultKind) : (kindBit k).getLsbD j.no = true ↔ j = k := by
  have low := faultKind_no_lt j
  rw [kindBit, BitVec.getLsbD_ofNat, decide_eq_true (by omega), Bool.true_and, Nat.testBit_two_pow, decide_eq_true_iff]
  exact ⟨fun h => (faultKind_no_inj h).symm, fun h => by rw [h]⟩

theorem fuMarked_has_iff (st : Store) (k : FaultKind) (src : FaultSource) (ch : Option Channel) (item : LogItem) (f : Fu)
    (j : FaultKind) : (fuMarked st k src ch item f).has j = true ↔ j = k ∨ f.has j = true := by
  change (f.status ||| kindBit k).getLsbD j.no = true ↔ _
  rw [BitVec.getLsbD_or, Bool.or_eq_true, kindBit_getLsbD]
  exact or_comm

/-! The two halves of a detection (R166) -/

section Detection

variable {k : FaultKind} {src : FaultSource} {ch : Option Channel} {item : List Byte} {s : State}

/-- FU after a detection (R158 to R164). -/
def fuDetected (s : State) (k : FaultKind) (src : FaultSource) (ch : Option Channel) (item : List Byte) : Fu :=
  { fuMarked s.store k src ch ⟨k.itemKind, item⟩ s.fu with
    capture := if captures s.store s.fu k then some (captureOf s k src ch) else s.fu.capture }

theorem fuDetected_of_correctable (h : isCorrectable s.store k = true) : fuDetected s k src ch item = { s.fu with
    multiCorr := s.fu.multiCorr || classSet s.store s.fu true
    status := s.fu.status ||| kindBit k
    idCorr := some src
    log := if s.fu.log.isNone && !s.store.masked k then some ⟨k, src, ch, k.itemKind, item⟩ else s.fu.log } := by
  simp only [fuDetected, fuMarked, captures, findsFull, h, Bool.not_true, Bool.false_and, Bool.true_and, Bool.or_false, if_true,
    Bool.false_eq_true, if_false]

theorem fuDetected_of_uncorrectable (h : isCorrectable s.store k = false) : fuDetected s k src ch item = { s.fu with
    multiUncorr := s.fu.multiUncorr || classSet s.store s.fu false
    status := s.fu.status ||| kindBit k
    idUncorr := some src
    log := if s.fu.log.isNone && !s.store.masked k then some ⟨k, src, ch, k.itemKind, item⟩ else s.fu.log
    captureMultiple := s.fu.captureMultiple || s.fu.capture.isSome
    capture := if s.fu.capture.isNone then some (captureOf s k src ch) else s.fu.capture } := by
  simp only [fuDetected, fuMarked, captures, findsFull, h, Bool.not_false, Bool.false_and, Bool.true_and, Bool.or_false,
    Bool.false_eq_true, if_false]

variable (awake : s.mode ≠ .powerup)

include awake in
theorem detect_of_same_mode (h : detectMode k s = s.mode) :
    detect k src ch item s = detectRecord k src ch ⟨k.itemKind, item⟩ s := by
  rw [detect, if_neg awake, if_pos h]

include awake in
theorem detect_of_mode (h : detectMode k s ≠ s.mode) :
    detect k src ch item s = setMode (detectMode k s) (detectRecord k src ch ⟨k.itemKind, item⟩ s) := by
  rw [detect, if_neg awake, if_neg h]

include awake in
theorem fu_detect : (detect k src ch item s).fu = fuDetected s k src ch item := by
  by_cases h : detectMode k s = s.mode
  · rw [detect_of_same_mode awake h]; rfl
  · rw [detect_of_mode awake h]; rfl

include awake in
theorem codes_detect : (detect k src ch item s).flc.codes = if captures s.store s.fu k then 0 else s.flc.codes := by
  by_cases h : detectMode k s = s.mode
  · rw [detect_of_same_mode awake h]; rfl
  · rw [detect_of_mode awake h]; rfl

include awake in
theorem mode_detect_eq : (detect k src ch item s).mode = detectMode k s := by
  by_cases h : detectMode k s = s.mode
  · rw [detect_of_same_mode awake h]; exact h.symm
  · rw [detect_of_mode awake h]; rfl

theorem detectMode_eq : detectMode k s = modeAfter
    (if s.fu.capture ≠ none ∧ s.store.promote = true ∧ s.store.severity k = .degrade ∧ s.mode.operating = true then .fatal
      else s.store.severity k) s.mode := by
  rw [detectMode, appliedSeverity_eq]

/-- A detection's mode is neither CONFIG's nor STANDBY's way to RUN, so that the ready marks go (R165, R173). -/
theorem readyAfter_detectMode (h : detectMode k s ≠ s.mode) (r : PerLane (Option Nat)) :
    readyAfter s.mode (detectMode k s) r = ⟨none, none⟩ := by
  have not_run : detectMode k s ≠ .run := by
    rcases (modeAfter_cases _ s.mode).resolve_left h with e | e <;> rw [detectMode, e] <;> nofun
  exact if_neg fun both => not_run both.2

end Detection

/-- The notices of a detection before its mode effect (R166). -/
theorem detectNotices_eq (st : Store) (f : Fu) (m : Mode) (k : FaultKind) (src : FaultSource) :
    detectNotices st f m k src =
      (if st.masked k = true then []
        else [.faultRaised (kindBit k) src (appliedSeverity st f m k) (modeAfter (appliedSeverity st f m k) m)]) ++
      if st.severity k ≠ .correctable ∧ f.capture = none then [.captureFull k src] else [] := by
  simp only [detectNotices, captures_iff]

/-- Settles O30. -/
theorem detectionRecorded : Obligations.DetectionRecorded := by
  unfold Obligations.DetectionRecorded
  intro k src ch item s t corr
  refine ⟨fun asleep => detect_of_powerup asleep k src ch item, fun awake => ?recorded, modeAfter_correctable,
    ⟨rfl, fun m => modeAfter_degrade⟩, ⟨rfl, rfl, rfl, fun m => modeAfter_fatal⟩, ?frame, fun awake => ?effect⟩
  case frame => rw [show t = _ from detect_frame s k src ch item]
  case recorded =>
    have fu : t.fu = fuDetected s k src ch item := fu_detect awake
    have codes : t.flc.codes = _ := codes_detect awake
    have mode : t.mode = detectMode k s := mode_detect_eq awake
    rw [fu, codes, mode, detectMode_eq]
    refine ⟨fuMarked_has_iff s.store k src ch ⟨k.itemKind, item⟩ s.fu, fun mild => ?mild, fun severe => ?class_, fun severe empty => ?captured,
      fun severe full => ?full, ?log⟩
    case mild =>
      have hb := (isCorrectable_iff s.store k).2 mild
      rw [fuDetected_of_correctable hb, captures, hb, show s.store.severity k = .correctable from mild]
      refine ⟨rfl, rfl, rfl, ?_, rfl, rfl, rfl, ?_⟩
      · exact (Bool.or_eq_true _ _).to_iff.trans (or_congr_right (classSet_correctable_iff _ _))
      · simp only [reduceCtorEq, false_and, and_false, if_false, modeAfter_correctable]
    case class_ =>
      rw [fuDetected_of_uncorrectable (isCorrectable_eq_false_iff.2 severe)]
      exact ⟨rfl, rfl, rfl, (Bool.or_eq_true _ _).to_iff.trans (or_congr_right (classSet_uncorrectable_iff _ _))⟩
    case captured =>
      rw [fuDetected_of_uncorrectable (isCorrectable_eq_false_iff.2 severe), if_pos (captures_iff.2 ⟨severe, empty⟩), empty]
      refine ⟨rfl, Bool.or_false _, rfl, ?_⟩
      simp only [ne_eq, not_true_eq_false, false_and, if_false]
    case full =>
      obtain ⟨held, present⟩ := Option.ne_none_iff_exists'.1 full
      rw [fuDetected_of_uncorrectable (isCorrectable_eq_false_iff.2 severe), if_neg (fun h => full (captures_iff.1 h).2), present]
      refine ⟨rfl, Bool.or_true _, rfl, ?_⟩
      simp only [ne_eq, reduceCtorEq, not_false_eq_true, true_and]
    case log =>
      change (if (s.fu.log.isNone && !s.store.masked k) = true then _ else _) = _
      simp only [Bool.and_eq_true, Option.isNone_iff_eq_none, Bool.not_eq_true']
  case effect =>
    intro applied after told
    have applied_eq : appliedSeverity s.store s.fu s.mode k = applied := appliedSeverity_eq _ _ _ _
    have after_eq : detectMode k s = after := by rw [detectMode, applied_eq]
    have told_eq : offerMany s.store (detectNotices s.store s.fu s.mode k src) s.mpi = told := by
      rw [detectNotices_eq, applied_eq]
    refine ⟨kindBit_toNat k, (mode_detect_eq awake).trans after_eq, fun same => ?_, fun moved => ?_⟩
    · have t_eq : t = _ := detect_of_same_mode awake (after_eq.trans same)
      rw [t_eq]
      exact ⟨told_eq, rfl, rfl⟩
    · have t_eq : t = _ := detect_of_mode awake (by rw [after_eq]; exact moved)
      have marks := readyAfter_detectMode (k := k) (s := s) (by rw [after_eq]; exact moved) s.mc.ready
      rw [t_eq, ← after_eq]
      refine ⟨?_, rfl, marks⟩
      change offerPorts s.store (.modeChanged s.mode (detectMode k s)) (offerMany s.store _ s.mpi) = _
      rw [told_eq]

end Sys2Proof.Machine
end

section

/-! PROOFS. CLEAR_FAULT (R167), and what the end of a step leaves when little waits. -/

namespace Sys2Proof.Machine

open Sys2Proof.Safety

/-! What the link's going on leaves (R43, R55, R56, R100) -/

/-- From `s` to `t` only FLC and SJU's last sent value changed. -/
def LinkOnly (s t : State) : Prop := t = { s with sju := { s.sju with lastSent := t.sju.lastSent }, flc := t.flc }

theorem LinkOnly.refl (s : State) : LinkOnly s s := rfl

theorem LinkOnly.trans {s t u : State} (h : LinkOnly s t) (g : LinkOnly t u) : LinkOnly s u := by
  unfold LinkOnly at h g ⊢
  rw [h] at g
  exact g

theorem linkOnly_withFlc (f : Flc) (s : State) : LinkOnly s (withFlc f s) := rfl

theorem linkOnly_pollNext (s : State) : LinkOnly s (pollNext s) := by
  unfold pollNext
  split
  · exact .refl s
  · unfold sjuPolled
    split <;> rfl

theorem linkOnly_advance (s : State) : LinkOnly s (advance s) := by
  unfold advance
  split
  · exact .refl s
  · exact .refl s
  · split
    · split
      · unfold endRound
        split
        · exact (linkOnly_withFlc _ s).trans (linkOnly_pollNext _)
        · exact linkOnly_withFlc _ s
      · exact linkOnly_pollNext s
    · exact .refl s
  · exact linkOnly_withFlc _ s
  · exact (linkOnly_withFlc _ s).trans (linkOnly_pollNext _)
  · exact linkOnly_withFlc _ s

/-- What CLEAR_FAULT's answer and its statement speak of. -/
structure KeepsFaults (s t : State) : Prop where
  fu : t.fu = s.fu
  mc : t.mc = s.mc
  follow : t.sju.centring = s.sju.centring

theorem KeepsFaults.trans {s t u : State} (h : KeepsFaults s t) (g : KeepsFaults t u) : KeepsFaults s u :=
  ⟨g.fu.trans h.fu, g.mc.trans h.mc, g.follow.trans h.follow⟩

theorem LinkOnly.keepsFaults {s t : State} (h : LinkOnly s t) : KeepsFaults s t := by
  unfold LinkOnly at h
  rw [h]
  exact ⟨rfl, rfl, rfl⟩

/-! The mark of FOLLOW_ERROR cleared (R102, R103) -/

/-- A change of the STR_C claim announces STR_C's setpoint, or nothing. -/
theorem inFlight_centre {s : State} (quiet : s.inFlight = []) :
    (centre s).inFlight = [] ∨ ∃ h sp b, (centre s).inFlight = [.channel .str h sp b] := by
  have told : ∀ u, TellsChange s u .str → u.inFlight = [] ∨ ∃ h sp b, u.inFlight = [.channel .str h sp b] := by
    rintro u ⟨told, -, -⟩
    rw [told, quiet, List.nil_append, announcedChange]
    split_ifs
    · exact .inl rfl
    · exact .inr ⟨_, _, _, rfl⟩
  unfold centre
  split
  · exact told _ (tellsChange_placeClaim s _ _)
  · exact told _ (tellsChange_changeList s _ _)

theorem keepsFaults_centre (s : State) : KeepsFaults s (centre s) := by
  unfold centre
  split
  · rw [placeClaim_frame]; exact ⟨rfl, rfl, rfl⟩
  · rw [withdrawClaim_frame]; exact ⟨rfl, rfl, rfl⟩

theorem inFlight_setCentring {s : State} (quiet : s.inFlight = []) (c : Centring) :
    (setCentring c s).inFlight = [] ∨ ∃ h sp b, (setCentring c s).inFlight = [.channel .str h sp b] := by
  unfold setCentring
  split
  · exact .inl quiet
  · exact inFlight_centre (s := { s with sju := _ }) quiet

theorem setCentring_fields (c : Centring) (s : State) :
    (setCentring c s).fu = s.fu ∧ (setCentring c s).mc = s.mc ∧ (setCentring c s).sju.centring = c := by
  unfold setCentring
  split
  · rename_i same; exact ⟨rfl, rfl, same⟩
  · obtain ⟨fu, mc, follow⟩ := keepsFaults_centre { s with sju := { s.sju with centring := c } }
    exact ⟨fu, mc, follow⟩

/-- STR_C's setpoint taken by SJU, the step ends. -/
theorem settle_str {s : State} (h : s.inFlight = [] ∨ ∃ h sp b, s.inFlight = [.channel .str h sp b]) (n : Nat) :
    KeepsFaults s (settle (n + 1) s) := by
  rcases h with quiet | ⟨h, sp, b, one⟩
  · rw [settle_succ_of_empty quiet]; exact ⟨rfl, rfl, rfl⟩
  · rw [settle_succ_of_cons one, settle_of_empty _ n rfl]; exact ⟨rfl, rfl, rfl⟩

/-- A step that causes nothing keeps FU, MC and the centring conditions. -/
theorem complete_keepsFaults {s : State} (quiet : s.inFlight = []) : KeepsFaults s (complete s) :=
  (settle_str (.inl quiet) 1023).trans (linkOnly_advance _).keepsFaults

/-- A step that announces the follow mark clear. -/
theorem complete_followMark {s : State} (one : s.inFlight = [.followMark false]) :
    (complete s).fu = s.fu ∧ (complete s).mc = s.mc ∧ (complete s).sju.centring.follow = false := by
  have first : settle 1024 s = settle 1023 (setCentring { s.sju.centring with follow := false } { s with inFlight := [] }) :=
    settle_succ_of_cons one 1023
  obtain ⟨fu, mc, centring⟩ := setCentring_fields { s.sju.centring with follow := false } { s with inFlight := [] }
  have kept := (settle_str (inFlight_setCentring (s := { s with inFlight := [] }) rfl { s.sju.centring with follow := false })
    1022).trans (linkOnly_advance _).keepsFaults
  rw [complete_eq, settleLimit, first]
  exact ⟨kept.fu.trans fu, kept.mc.trans mc, by rw [kept.follow, centring]⟩

/-! CLEAR_FAULT (R167) -/

theorem exec_clearFault_of_passes {p : Port} {r : Byte} {s : State} (h : Passes p r lanePorts s) (ks : BitVec 24) :
    exec (.clearFault p r ks) s = .next (owned p 0x19 (ownClearFault ks (closeTransfer p s))) :=
  congrArg Host.Outcome.next (request_of_passes h _ _)

section Own

variable {ks : BitVec 24} {s : State}

theorem ownClearFault_of_outside (h : 2097152 ≤ ks.toNat) : ownClearFault ks s = (s, some ⟨.refusedArg, []⟩) := by
  rw [ownClearFault, if_pos (by omega)]; rfl

theorem ownClearFault_of_empty : ownClearFault 0 s = (s, some ⟨.ok, set3 s.fu.status.toNat⟩) := rfl

theorem ownClearFault_of_set (some_kind : ks ≠ 0) (h : ks.toNat < 2097152) : ownClearFault ks s =
    (complete (announce (clearedEvents ks) { s with fu := fuCleared s.store ks s.fu }),
      some ⟨.ok, set3 (fuCleared s.store ks s.fu).status.toNat⟩) := by
  rw [ownClearFault, if_neg (by omega), if_neg some_kind]

/-- What FU, MC and the centring conditions are after a CLEAR_FAULT. -/
theorem complete_clearFault (quiet : s.inFlight = []) (f : Fu) :
    (complete (announce (clearedEvents ks) { s with fu := f })).fu = f ∧
    (complete (announce (clearedEvents ks) { s with fu := f })).mc = s.mc ∧
    (complete (announce (clearedEvents ks) { s with fu := f })).sju.centring.follow =
      if ks.getLsbD 10 then false else s.sju.centring.follow := by
  have told : (announce (clearedEvents ks) { s with fu := f }).inFlight = clearedEvents ks :=
    (congrArg (· ++ clearedEvents ks) quiet).trans (List.nil_append _)
  cases h : ks.getLsbD 10 with
  | true =>
    obtain ⟨fu, mc, follow⟩ := complete_followMark (told.trans (if_pos h))
    exact ⟨fu, mc, follow⟩
  | false =>
    obtain ⟨fu, mc, follow⟩ := complete_keepsFaults (told.trans (if_neg (by rw [h]; exact Bool.false_ne_true)))
    exact ⟨fu, mc, congrArg Centring.follow follow⟩

end Own

section Cleared

variable (st : Store) (ks : BitVec 24) (f : Fu)

theorem fuCleared_has (k : FaultKind) :
    (fuCleared st ks f).has k = true ↔ f.has k = true ∧ ks.getLsbD k.no = false := by
  have low := faultKind_no_lt k
  change (f.status &&& ~~~ks).getLsbD k.no = true ↔ _
  rw [BitVec.getLsbD_and, BitVec.getLsbD_not, decide_eq_true (by omega), Bool.true_and, Bool.and_eq_true, Bool.not_eq_true']
  rfl

theorem fuCleared_log_of_some {l : LogEntry} (h : f.log = some l) :
    (fuCleared st ks f).log = if ks.getLsbD l.kind.no then none else some l := by
  simp only [fuCleared, h]

theorem fuCleared_log_of_none (h : f.log = none) : (fuCleared st ks f).log = none := by
  simp only [fuCleared, h]

/-- The class flags and identifiers left (R167). -/
theorem fuCleared_class :
    (fuCleared st ks f).multiCorr = (f.multiCorr && classSet st (fuCleared st ks f) true) ∧
    (fuCleared st ks f).multiUncorr = (f.multiUncorr && classSet st (fuCleared st ks f) false) ∧
    (fuCleared st ks f).idCorr = (if classSet st (fuCleared st ks f) true then f.idCorr else none) ∧
    (fuCleared st ks f).idUncorr = if classSet st (fuCleared st ks f) false then f.idUncorr else none := ⟨rfl, rfl, rfl, rfl⟩

end Cleared

/-- Settles O32. -/
theorem faultsCleared : Obligations.FaultsCleared := by
  unfold Obligations.FaultsCleared
  intro p r ks s passes
  refine ⟨fun outside => ?_, fun none_named => ?_, fun some_kind inside nothing => ?_⟩
  · rw [exec_clearFault_of_passes passes, ownClearFault_of_outside outside]; rfl
  · subst none_named
    rw [exec_clearFault_of_passes passes, ownClearFault_of_empty]; rfl
  · generalize hc : closeTransfer p s = c
    have fu : c.fu = s.fu := by rw [← hc]; rfl
    have store : c.store = s.store := by rw [← hc]; rfl
    have mc : c.mc = s.mc := by rw [← hc]; rfl
    have sju : c.sju = s.sju := by rw [← hc]; rfl
    have quiet : c.inFlight = [] := by rw [← hc]; exact nothing
    obtain ⟨fu', mc', follow⟩ := complete_clearFault (ks := ks) quiet (fuCleared s.store ks s.fu)
    refine ⟨complete (announce (clearedEvents ks) { c with fu := fuCleared s.store ks s.fu }), ?_, ?_⟩
    · rw [exec_clearFault_of_passes passes, hc, ownClearFault_of_set some_kind inside, fu', store, fu]; rfl
    generalize complete (announce (clearedEvents ks) { c with fu := fuCleared s.store ks s.fu }) = t at fu' mc' follow
    obtain ⟨multiCorr, multiUncorr, idCorr, idUncorr⟩ := fuCleared_class s.store ks s.fu
    have corr_iff := classSet_correctable_iff s.store (fuCleared s.store ks s.fu)
    have uncorr_iff := classSet_uncorrectable_iff s.store (fuCleared s.store ks s.fu)
    rw [fu']
    refine ⟨fuCleared_has s.store ks s.fu, fun l => fuCleared_log_of_some s.store ks s.fu, fuCleared_log_of_none s.store ks s.fu,
      fun left => ?_, fun left => ?_, fun left => ?_, fun left => ?_, rfl, rfl, (congrArg Mc.store (mc'.trans mc)),
      congrArg Mc.mode (mc'.trans mc), by rw [follow, sju]⟩
    · have clear : classSet s.store (fuCleared s.store ks s.fu) true = false :=
        Bool.eq_false_iff.2 fun set => by obtain ⟨k, has, mild⟩ := corr_iff.1 set; exact left k has mild
      rw [multiCorr, idCorr, clear]; exact ⟨Bool.and_false _, rfl⟩
    · rw [multiCorr, idCorr, corr_iff.2 left]; exact ⟨Bool.and_true _, rfl⟩
    · have clear : classSet s.store (fuCleared s.store ks s.fu) false = false :=
        Bool.eq_false_iff.2 fun set => by obtain ⟨k, has, severe⟩ := uncorr_iff.1 set; exact severe (left k has)
      rw [multiUncorr, idUncorr, clear]; exact ⟨Bool.and_false _, rfl⟩
    · rw [multiUncorr, idUncorr, uncorr_iff.2 left]; exact ⟨Bool.and_true _, rfl⟩

end Sys2Proof.Machine
end

section

/-! PROOFS. The field link: rounds, commands, the shutdown handshake (R42 to R44, R55 to R57, R100). -/

namespace Sys2Proof.Machine

open Sys2Proof.Safety

/-! Expiry of the field cycle timer (R43) -/

theorem exec_fieldCycleExpiry (s : State) : exec .fieldCycleExpiry s = .next (complete (cycleExpiry s)) := rfl

theorem cycleExpiry_of_stopped {s : State} (h : s.flc.timer = none) : cycleExpiry s = s := by
  rw [cycleExpiry, h]

theorem cycleExpiry_of_running {s : State} (h : s.flc.timer ≠ none) : cycleExpiry s =
    if s.flc.inRound then withFlc { s.flc with timer := some s.store.tf, roundPending := true } s
    else withFlc (roundBegun s.store { s.flc with timer := some s.store.tf }) s := by
  obtain ⟨ms, running⟩ := Option.ne_none_iff_exists'.1 h
  rw [cycleExpiry, running]

/-- Settles O33. -/
theorem fieldCycleExpires : Obligations.FieldCycleExpires := by
  unfold Obligations.FieldCycleExpires
  refine fun s => ⟨fun running inRound => ?_, fun running between => ?_, fun stopped => ?_⟩
  · rw [exec_fieldCycleExpiry, cycleExpiry_of_running running, inRound]; rfl
  · rw [exec_fieldCycleExpiry, cycleExpiry_of_running running, between]; rfl
  · rw [exec_fieldCycleExpiry, cycleExpiry_of_stopped stopped]

/-! The next command (R43, R44, R57, R100) -/

theorem advance_of_polling {s : State} (idle : s.flc.txn = none) (polling : s.flc.phase = .polling) :
    advance s = if s.flc.inRound then (if s.flc.left.isEmpty then endRound s else pollNext s) else s := by
  rw [advance, idle, polling]

theorem advance_of_next {s : State} {n : Node} {rest : List Node} (idle : s.flc.txn = none) (polling : s.flc.phase = .polling)
    (inRound : s.flc.inRound = true) (next : s.flc.left = n :: rest) :
    advance s = { s with sju := sjuPolled s n, flc := { s.flc with left := rest, txn := some (pollTxn s n) } } := by
  rw [advance_of_polling idle polling, inRound, next, pollNext, next]; rfl

theorem pollsEcho_iff (f : Flc) (n : Node) :
    pollsEcho f n = true ↔ f.testLive = true ∧ f.test.result = .running ∧ f.test.node = n := by
  rw [pollsEcho, Bool.and_eq_true, Bool.and_eq_true, beq_iff_eq, beq_iff_eq, and_assoc]

section Polled

variable {s : State} {n : Node}

theorem pollTxn_of_echo (h : pollsEcho s.flc n = true) : pollTxn s n =
    ⟨n, s.store.nodeAddr n, .echo, s.flc.test.pattern.toNat, s.store.window, none⟩ := by
  rw [pollTxn, if_pos h]

theorem pollTxn_of_set (h : ¬ pollsEcho s.flc n = true) :
    pollTxn s n = ⟨n, s.store.nodeAddr n, .set, setValue s n, s.store.window, none⟩ := by
  rw [pollTxn, if_neg h]

/-- An ECHO does not step the limiter (R57). -/
theorem sjuPolled_of_echo (h : pollsEcho s.flc n = true) : sjuPolled s n = s.sju := by
  rw [sjuPolled, if_neg fun both => both.2 h]

theorem sjuPolled_of_ne_str (h : n ≠ .str) : sjuPolled s n = s.sju := by
  rw [sjuPolled, if_neg fun both => h both.1]

theorem sjuPolled_of_set (h : ¬ pollsEcho s.flc .str = true) :
    sjuPolled s .str = { s.sju with lastSent := limitStep s.store s.sju } := by
  rw [sjuPolled, if_pos ⟨rfl, h⟩]

end Polled

/-- A setpoint is its own number, or has none. -/
theorem num_numOf (sp : Setpoint) : sp = .num (numOf sp) ∨ ∀ m, sp ≠ .num m := by
  cases sp with
  | num n => exact .inl rfl
  | _ => exact .inr nofun

theorem setValue_lvl (s : State) (k : Corner) : setValue s (.lvl k) = match (s.lku.corners.get k).valve with
    | .hold => 0
    | .fill => 1
    | .exhaust => 2 := by
  change ((s.lku.corners.get k).valve.code : Int) = _
  cases (s.lku.corners.get k).valve <;> rfl

theorem endRound_of_pending {s : State} (h : s.flc.roundPending = true) :
    endRound s = pollNext (withFlc (roundBegun s.store { s.flc with roundPending := false }) s) := by
  rw [endRound, if_pos h]

theorem endRound_of_done {s : State} (h : s.flc.roundPending = false) :
    endRound s = withFlc { s.flc with inRound := false } s := by
  rw [endRound, h]; rfl

/-- Settles O34. -/
theorem commandsFormed : Obligations.CommandsFormed := by
  unfold Obligations.CommandsFormed
  refine ⟨fun s n rest idle polling inRound next => ?next, fun s idle polling inRound done => ?round,
    fun s polling between => ?between, fun s x running => advance_of_txn s x running⟩
  case next =>
    intro t echo
    have formed : t = _ := advance_of_next idle polling inRound next
    have echo_iff : pollsEcho s.flc n = true ↔ echo := pollsEcho_iff s.flc n
    clear_value t
    subst formed
    refine ⟨rfl, fun echoed => ?_, fun set => ⟨setValue s n, ?_, ?_, ?_, fun other => ?_, ?_, ?_⟩, rfl⟩
    · exact ⟨congrArg some (pollTxn_of_echo (echo_iff.2 echoed)), sjuPolled_of_echo (echo_iff.2 echoed)⟩
    · exact congrArg some (pollTxn_of_set (mt echo_iff.1 set))
    · rintro x rfl; exact num_numOf _
    · rintro rfl; exact ⟨rfl, sjuPolled_of_set (mt echo_iff.1 set)⟩
    · exact sjuPolled_of_ne_str other
    · rintro rfl; exact num_numOf _
    · rintro k rfl; exact setValue_lvl s k
  case round =>
    intro begun
    have ends : advance s = endRound s := by
      rw [advance_of_polling idle polling, inRound, done]; rfl
    refine ⟨fun pending => ⟨?_, laterNodes s.store, fittedNodes_eq s.store⟩, fun settled => ?_⟩
    · have begun_eq : begun = withFlc (roundBegun s.store { s.flc with roundPending := false }) s := by
        change ({ s with flc := _ } : State) = { s with flc := _ }
        rw [roundBegun, ← inRound]; rfl
      have polls : advance begun = pollNext begun := by
        rw [advance_of_polling (s := begun) idle polling, show begun.flc.inRound = true from inRound,
          show begun.flc.left = _ from fittedNodes_eq s.store]; rfl
      rw [ends, endRound_of_pending pending, polls, begun_eq]
    · rw [ends, endRound_of_done settled]; rfl
  case between =>
    cases running : s.flc.txn with
    | none => rw [advance_of_polling running polling, between]; rfl
    | some x => exact advance_of_txn s x running

/-! The shutdown handshake (R42, R55, R56) -/

theorem exec_shutdownAckReceived (code : Fin 8) (s : State) :
    exec (.shutdownAckReceived code) s = .next (complete (shutdownAck code s)) := rfl

theorem exec_tAckExpiry (k : MissKind) (s : State) : exec (.tAckExpiry k) s = .next (complete (ackExpiry k s)) := rfl

section Handshake

variable {s : State} {x : Txn}

theorem shutdownAck_good (h : InShutdown s x) : shutdownAck 0 s = { s with flc := { s.flc with txn := none } } := by
  obtain ⟨running, kind⟩ := h
  rw [shutdownAck, running]
  dsimp only
  rw [if_neg fun ne => ne kind, if_pos rfl]; rfl

theorem shutdownAck_code (h : InShutdown s x) {code : Fin 8} (failed : code ≠ 0) :
    shutdownAck code s = { s with flc := { s.flc with txn := some { x with code := some (x.code.getD code) } } } := by
  obtain ⟨running, kind⟩ := h
  rw [shutdownAck, running]
  dsimp only
  rw [if_neg fun ne => ne kind, if_neg failed]; rfl

theorem shutdownAck_of_other (h : ∀ x, s.flc.txn = some x → x.kind ≠ .shutdown) (code : Fin 8) : shutdownAck code s = s := by
  rw [shutdownAck]
  split
  · rfl
  · rename_i x running
    rw [if_pos (h x running)]

/-- The end of a SHUTDOWN at T_ack whose acknowledge brought a code (R55). -/
theorem ackExpiry_code (h : InShutdown s x) {c : Fin 8} (coded : x.code = some c) (k : MissKind) :
    ackExpiry k s = ackMissing x 3 (recordCode x.node c.val (endTxn s)) := by
  obtain ⟨running, kind⟩ := h
  rw [ackExpiry, running]
  dsimp only
  rw [if_neg fun ne => ne kind, coded]

theorem ackExpiry_missing (h : InShutdown s x) (uncoded : x.code = none) (k : MissKind) :
    ackExpiry k s = ackMissing x (missCode k) (endTxn s) := by
  obtain ⟨running, kind⟩ := h
  rw [ackExpiry, running]
  dsimp only
  rw [if_neg fun ne => ne kind, uncoded]

theorem ackExpiry_of_other (h : ∀ x, s.flc.txn = some x → x.kind ≠ .shutdown) (k : MissKind) : ackExpiry k s = s := by
  rw [ackExpiry]
  split
  · rfl
  · rename_i x running
    rw [if_pos (h x running)]

/-- FLC as a SHUTDOWN ends at T_ack (R55). -/
def flcAckEnded (f : Flc) (x : Txn) : Flc :=
  match x.code with
  | some c => { f with
    txn := none
    nodes := f.nodes.set x.node { f.nodes.get x.node with lastCode := c.val }
    codes := addCode c.val f.codes }
  | none => { f with txn := none }

theorem ackExpiry_eq (h : InShutdown s x) (k : MissKind) : ackExpiry k s =
    detect .shutdownAckMissing (.node x.node) (some x.node.channel)
      ([byte x.address, 3] ++ wordInt x.value ++ [byte (if x.code = none then missCode k else 3)])
      { s with flc := flcAckEnded s.flc x } := by
  have kind : x.kind = .shutdown := h.2
  have item : ∀ n, commandItem x n = [byte x.address, 3] ++ wordInt x.value ++ [byte n] := fun n => by
    rw [commandItem, kind]; rfl
  cases coded : x.code with
  | some c =>
    rw [ackExpiry_code h coded, ackMissing, item, flcAckEnded, coded]; rfl
  | none =>
    rw [ackExpiry_missing h coded, ackMissing, item, flcAckEnded, coded]; rfl

theorem nodes_flcAckEnded (f : Flc) (x : Txn) : (flcAckEnded f x).nodes.get x.node =
    match x.code with
    | some c => { f.nodes.get x.node with lastCode := c.val }
    | none => f.nodes.get x.node := by
  unfold flcAckEnded
  cases x.code with
  | some c => exact (PerNode_get_set _ _ _ _).trans (if_pos rfl)
  | none => rfl

theorem nodes_flcAckEnded_of_ne (f : Flc) (x : Txn) {n : Node} (h : n ≠ x.node) :
    (flcAckEnded f x).nodes.get n = f.nodes.get n := by
  unfold flcAckEnded
  cases x.code with
  | some c => exact (PerNode_get_set _ _ _ _).trans (if_neg h)
  | none => rfl

end Handshake

theorem advance_of_shutdown {s : State} {n : Node} {rest : List Node} {start : Bool} (idle : s.flc.txn = none)
    (h : s.flc.phase = .shutdown (n :: rest) start) :
    advance s = withFlc { s.flc with phase := .shutdown rest start, txn := some (shutdownTxn s.store n) } s := by
  rw [advance, idle, h]

theorem advance_of_last {s : State} (idle : s.flc.txn = none) (h : s.flc.phase = .shutdown [] false) :
    advance s = withFlc { s.flc with phase := .stopped } s := by
  rw [advance, idle, h]

theorem advance_of_stopped {s : State} (idle : s.flc.txn = none) (h : s.flc.phase = .stopped) : advance s = s := by
  rw [advance, idle, h]

/-- After the handshake an entry to RUN starts the link with BRK_A's command (R42, R56). -/
theorem advance_of_restart {s : State} (idle : s.flc.txn = none) (h : s.flc.phase = .shutdown [] true) :
    (advance s).flc = { linkStarted s.store s.flc with
      left := laterNodes s.store
      txn := some (pollTxn (withFlc (linkStarted s.store s.flc) s) (.brk .a)) } := by
  have started : advance s = pollNext (withFlc (linkStarted s.store s.flc) s) := by rw [advance, idle, h]
  rw [started, pollNext_of_ne_str _ (.brk .a) (laterNodes s.store) (fittedNodes_eq s.store) nofun]
  rfl

/-- Settles O37. -/
theorem shutdownAcknowledged : Obligations.ShutdownAcknowledged := by
  unfold Obligations.ShutdownAcknowledged
  refine ⟨fun s x shutting => ⟨?_, fun code failed => ?_, fun k => ?_, fun k nothing => ?_⟩, fun s idle =>
    ⟨fun n rest start asks => ?_, fun last => ?_, fun stopped => advance_of_stopped idle stopped, fun restart => ?_⟩,
    fun s other => ⟨fun code => ?_, fun k => ?_⟩⟩
  · rw [exec_shutdownAckReceived, shutdownAck_good shutting]
  · rw [exec_shutdownAckReceived, shutdownAck_code shutting failed]
  · intro ended failure
    rw [exec_tAckExpiry, ackExpiry_eq shutting]; rfl
  · refine ⟨complete (ackExpiry k s), rfl, ?_⟩
    rw [ackExpiry_eq shutting]
    generalize hu : ({ s with flc := flcAckEnded s.flc x } : State) = u
    have quiet : u.inFlight = [] := by rw [← hu]; exact nothing
    have mode : u.mode = s.mode := by rw [← hu]; rfl
    have nodes : u.flc.nodes = (flcAckEnded s.flc x).nodes := by rw [← hu]
    have kept := (complete_calm _ (calmState_detect quiet .shutdownAckMissing (.node x.node) (some x.node.channel)
      ([byte x.address, 3] ++ wordInt x.value ++ [byte (if x.code = none then missCode k else 3)]))).nodes.trans
      (detect_mild u _ _ _ _).same.nodes
    refine ⟨fun awake => complete_detect_has quiet (by rw [mode]; exact awake) _ _ _ _, ?_, fun n other => ?_⟩
    · rw [kept, nodes]; exact nodes_flcAckEnded s.flc x
    · rw [kept, nodes]; exact nodes_flcAckEnded_of_ne s.flc x other
  · rw [advance_of_shutdown idle asks]; rfl
  · rw [advance_of_last idle last]; rfl
  · rw [advance_of_restart idle restart]; exact ⟨rfl, rfl, rfl, rfl⟩
  · rw [exec_shutdownAckReceived, shutdownAck_of_other other]
  · rw [exec_tAckExpiry, ackExpiry_of_other other]

end Sys2Proof.Machine
end

section

/-! PROOFS. The echo self-test (R57, R58). -/

namespace Sys2Proof.Machine

open Sys2Proof.Safety

/-! TEST_FIELD (R57) -/

theorem exec_testField_of_passes {p : Port} {r : Byte} {s : State} (h : Passes p r lanePorts s) (node : Byte) (pattern : Word)
    (count : Byte) : exec (.testField p r node pattern count) s =
      .next (owned p 0x1B (ownTestField node pattern count (closeTransfer p s))) :=
  congrArg Host.Outcome.next (request_of_passes h _ _)

theorem nodeOfNo_nodeNo (n : Node) : nodeOfNo (nodeNo n) = some n := by
  rcases n with x | _ | _ | k
  · cases x <;> rfl
  · rfl
  · rfl
  · cases k <;> rfl

theorem nodeNo_of_nodeOfNo {i : Nat} {n : Node} (h : nodeOfNo i = some n) : nodeNo n = i := by
  have low : i < 11 := (getElem?_isSome Node.all i).1 (by rw [show Node.all[i]? = _ from h]; rfl)
  interval_cases i <;> cases h <;> rfl

theorem fittedNode_of_fitted {st : Store} {b : Byte} {n : Node} (named : nodeNo n = b.toNat) (fitted : st.nodeFitted n = true) :
    fittedNode st b = some n := by
  rw [fittedNode, ← named, nodeOfNo_nodeNo]
  exact if_pos fitted

theorem fittedNode_of_none {st : Store} {b : Byte} (h : ∀ n, nodeNo n = b.toNat → st.nodeFitted n = false) :
    fittedNode st b = none := by
  rw [fittedNode]
  cases named : nodeOfNo b.toNat with
  | none => rfl
  | some n => exact if_neg (by rw [h n (nodeNo_of_nodeOfNo named)]; exact Bool.false_ne_true)

section Own

variable {node : Byte} {pattern : Word} {count : Byte} {s : State}

theorem ownTestField_of_state (h : s.mode ≠ .service ∨ s.flc.test.result = .running) :
    ownTestField node pattern count s = (s, some ⟨.refusedState, []⟩) := by
  by_cases elsewhere : s.mode ≠ .service
  · rw [ownTestField, if_pos elsewhere]; rfl
  · rw [ownTestField, if_neg elsewhere, if_pos (h.resolve_left elsewhere)]; rfl

variable (service : s.mode = .service) (idle : s.flc.test.result ≠ .running)

include service idle in
theorem ownTestField_of_unfitted (h : fittedNode s.store node = none) :
    ownTestField node pattern count s = (s, some ⟨.refusedArg, []⟩) := by
  rw [ownTestField, if_neg fun ne => ne service, if_neg idle, h]; rfl

include service idle in
theorem ownTestField_of_fitted {n : Node} (h : fittedNode s.store node = some n) : ownTestField node pattern count s =
    (withFlc { s.flc with test := testTaken n pattern count, testLive := false, abortDue := false } s, some ⟨.ok, []⟩) := by
  rw [ownTestField, if_neg fun ne => ne service, if_neg idle, h]

end Own

/-! An echo judged (R57, R58) -/

theorem echoJudged_eq (received matched : Bool) (r : SelfTest) : echoJudged received matched r = { r with
    sent := r.sent + 1
    received := r.received + (if received = true then 1 else 0)
    mismatch := if r.mismatch ≠ none ∨ matched = true then r.mismatch else some (r.sent + 1) } := by
  have counted : received.toNat = if received = true then 1 else 0 := by cases received <;> rfl
  simp only [echoJudged, counted, Bool.or_eq_true, Option.isSome_iff_ne_none, or_comm]

theorem echoEnd_of_more {received matched : Bool} {s : State}
    (h : s.flc.test.sent + 1 ≠ s.flc.test.count ∨ s.flc.abortDue = true) :
    echoEnd received matched s = withFlc { s.flc with test := echoJudged received matched s.flc.test } s := by
  refine if_neg fun both => ?_
  obtain ⟨last, alive⟩ := both
  rcases h with more | due
  · exact more last
  · rw [show s.flc.abortDue = false from alive] at due; cases due

theorem echoEnd_of_last {received matched : Bool} {s : State} (last : s.flc.test.sent + 1 = s.flc.test.count)
    (alive : s.flc.abortDue = false) : echoEnd received matched s =
      finishTest (testVerdict (echoJudged received matched s.flc.test))
        (withFlc { s.flc with test := echoJudged received matched s.flc.test } s) := if_pos ⟨last, alive⟩

theorem testVerdict_pass {t : SelfTest} (h : t.mismatch = none) : testVerdict t = .pass := by
  rw [testVerdict, h]; rfl

theorem testVerdict_fail {t : SelfTest} (h : t.mismatch ≠ none) : testVerdict t = .fail := by
  obtain ⟨n, first⟩ := Option.ne_none_iff_exists'.1 h
  rw [testVerdict, first]; rfl

/-- FLC with a self-test ended (R58). -/
def flcTestEnded (r : TestResult) (f : Flc) : Flc :=
  { f with test := { f.test with result := r }, testLive := false, abortDue := false }

theorem finishTest_of_not_fail {r : TestResult} (h : r ≠ .fail) (s : State) :
    finishTest r s = offer (.testDone r s.flc.test.node) (withFlc (flcTestEnded r s.flc) s) := by
  have quiet : raiseTestFail (withFlc (flcTestEnded r s.flc) s) = withFlc (flcTestEnded r s.flc) s := if_neg h
  change offer _ (raiseTestFail (withFlc (flcTestEnded r s.flc) s)) = _
  rw [quiet]

theorem finishTest_fail (s : State) : finishTest .fail s = offer (.testDone .fail s.flc.test.node)
    (detect .selfTestFail (.node s.flc.test.node) (some s.flc.test.node.channel)
      (testItem { s.flc.test with result := .fail }) (withFlc (flcTestEnded .fail s.flc) s)) := rfl

/-! Transactions of a tested node (R57, R58) -/

theorem echoMatches_eq (code : Nat) (m1 : Word) (s : State) :
    echoMatches code m1 s = decide (code = 0 ∧ m1 = s.flc.test.pattern) := (Bool.decide_and _ _).symm

theorem test_detect (k : FaultKind) (src : FaultSource) (ch : Option Channel) (item : List Byte) (s : State) :
    (detect k src ch item s).flc.test = s.flc.test := by
  rw [detect_frame]

theorem test_takeCode (x : Txn) (code : Nat) (m1 m2 : Word) (s : State) : (takeCode x code m1 m2 s).flc.test = s.flc.test := by
  unfold takeCode
  split
  · rfl
  · exact test_detect _ _ _ _ _

theorem test_becomeLost (x : Txn) (k : MissKind) (s : State) : (becomeLost x k s).flc.test = s.flc.test := by
  unfold becomeLost raiseCapacity
  split
  · split
    · exact (test_detect _ _ _ _ _).trans (test_detect _ _ _ _ _)
    · exact test_detect _ _ _ _ _
  · exact test_detect _ _ _ _ _

/-- The state after the faults of a miss (R47, R50, R54). -/
def missFaults (t : Txn) (k : MissKind) (s : State) : State :=
  let missed := detect .fieldMiss (.node t.node) (some t.node.channel) (commandItem t (missCode k))
    (setNode t.node (nodeMissed s.store.missLimit (s.flc.nodes.get t.node)) s)
  if (s.flc.nodes.get t.node).state ≠ .lost ∧ (missed.flc.nodes.get t.node).state = .lost then becomeLost t k missed else missed

theorem missResponse_eq (t : Txn) (k : MissKind) (s : State) :
    missResponse t k s = noMeasure t.node t.kind (judgeEcho t false false (missFaults t k s)) := rfl

theorem test_missFaults (t : Txn) (k : MissKind) (s : State) : (missFaults t k s).flc.test = s.flc.test := by
  unfold missFaults
  dsimp only
  split
  · exact (test_becomeLost _ _ _).trans (test_detect _ _ _ _ _)
  · exact test_detect _ _ _ _ _

theorem judgeEcho_of_echo {t : Txn} (h : t.kind = .echo) (received matched : Bool) (s : State) :
    judgeEcho t received matched s = echoEnd received matched s := if_pos h

theorem judgeEcho_of_set {t : Txn} (h : t.kind ≠ .echo) (received matched : Bool) (s : State) :
    judgeEcho t received matched s = s := if_neg h

/-- The state as a good response has had its node's record and its code taken (R48, R51). -/
def goodCoded (t : Txn) (code : Nat) (m1 m2 : Word) (s : State) : State :=
  takeCode t code m1 m2 (setNode t.node (nodeGood s.mode (s.flc.nodes.get t.node)) s)

theorem goodResponse_of_echo {t : Txn} (h : t.kind = .echo) (code : Nat) (m1 m2 : Word) (s : State) :
    goodResponse t code m1 m2 s =
      noMeasure t.node .echo (echoEnd true (decide (code = 0 ∧ m1 = s.flc.test.pattern)) (goodCoded t code m1 m2 s)) := by
  have test : (goodCoded t code m1 m2 s).flc.test = s.flc.test := test_takeCode _ _ _ _ _
  have whole : goodResponse t code m1 m2 s = echoResponse t code m1 (goodCoded t code m1 m2 s) := if_pos h
  rw [whole, echoResponse, echoMatches_eq, test]

theorem goodResponse_of_set {t : Txn} (h : t.kind ≠ .echo) (code : Nat) (m1 m2 : Word) (s : State) :
    goodResponse t code m1 m2 s = setResponse t code m1 m2 (goodCoded t code m1 m2 s) := if_neg h

theorem exec_fieldResponseReceived (code : Fin 8) (m1 m2 : Word) (s : State) :
    exec (.fieldResponseReceived code m1 m2) s = .next (complete (fieldResponse code.val m1 m2 s)) := rfl

theorem exec_responseWindowEnd (k : MissKind) (s : State) : exec (.responseWindowEnd k) s = .next (complete (windowEnd k s)) := rfl

section Transaction

variable {s : State} {x : Txn}

theorem fieldResponse_of_fitted (h : InTransaction s x) (code : Nat) (m1 m2 : Word) :
    fieldResponse code m1 m2 s = afterTxn (goodResponse x code m1 m2 (endTxn s)) := by
  obtain ⟨running, kind, fitted⟩ := h
  rw [fieldResponse, running]
  dsimp only
  rw [if_neg kind, if_pos fitted]

theorem windowEnd_of_fitted (h : InTransaction s x) (k : MissKind) :
    windowEnd k s = afterTxn (missResponse x k (endTxn s)) := by
  obtain ⟨running, kind, fitted⟩ := h
  rw [windowEnd, running]
  dsimp only
  rw [if_neg kind, if_pos fitted]

/-- Of the transaction of a node no longer fitted only its ECHO is judged (R58). -/
theorem fieldResponse_of_unfitted (running : s.flc.txn = some x) (kind : x.kind ≠ .shutdown)
    (unfitted : s.store.nodeFitted x.node = false) (code : Nat) (m1 m2 : Word) :
    fieldResponse code m1 m2 s = afterTxn (judgeEcho x true (echoMatches code m1 s) (endTxn s)) := by
  rw [fieldResponse, running]
  dsimp only
  rw [if_neg kind, unfitted]; rfl

theorem windowEnd_of_unfitted (running : s.flc.txn = some x) (kind : x.kind ≠ .shutdown)
    (unfitted : s.store.nodeFitted x.node = false) (k : MissKind) :
    windowEnd k s = afterTxn (judgeEcho x false false (endTxn s)) := by
  rw [windowEnd, running]
  dsimp only
  rw [if_neg kind, unfitted]; rfl

theorem fieldResponse_of_none (h : ∀ x, s.flc.txn = some x → x.kind = .shutdown) (code : Nat) (m1 m2 : Word) :
    fieldResponse code m1 m2 s = s := by
  rw [fieldResponse]
  split
  · rfl
  · rename_i x running
    rw [if_pos (h x running)]

theorem windowEnd_of_none (h : ∀ x, s.flc.txn = some x → x.kind = .shutdown) (k : MissKind) : windowEnd k s = s := by
  rw [windowEnd]
  split
  · rfl
  · rename_i x running
    rw [if_pos (h x running)]

end Transaction

/-! The abort of a self-test (R58) -/

theorem abortTest_eq (s : State) :
    abortTest s = offer (.testDone .aborted s.flc.test.node) (withFlc (flcTestEnded .aborted s.flc) s) :=
  finishTest_of_not_fail (r := .aborted) nofun s

theorem afterTxn_of_due {s : State} (h : s.flc.abortDue = true) : afterTxn s = abortTest s := if_pos h

theorem afterTxn_of_not_due {s : State} (h : s.flc.abortDue = false) : afterTxn s = s := by
  rw [afterTxn, h]; rfl

theorem flcMode_of_service {new : Mode} (h : new ≠ .standby) (s : State) : flcMode .service new s = flcLeaveService s := by
  rw [flcMode, if_neg h, if_neg (fun both => by cases both.1), if_neg nofun, if_pos rfl]

theorem flcLeaveService_of_running {s : State} (h : s.flc.test.result = .running) : flcLeaveService s =
    if s.flc.txn.isSome then withFlc { s.flc with abortDue := true } s else abortTest s := if_pos h

theorem flcLeaveService_of_idle {s : State} (h : s.flc.test.result ≠ .running) : flcLeaveService s = s := if_neg h

/-- Settles O38. -/
theorem selfTestTaken : Obligations.SelfTestTaken := by
  unfold Obligations.SelfTestTaken
  refine ⟨fun p r node pattern count s passes => ?taken, fun received matched s => ?judged, fun s x code m1 m2 k echo =>
    ⟨⟨goodCoded x code m1 m2 s, goodResponse_of_echo echo code m1 m2 s, test_takeCode _ _ _ _ _⟩,
      ⟨missFaults x k s, ?missed, test_missFaults x k s⟩⟩, fun s x code m1 m2 k running unfitted => ?unfitted,
    fun s new => ?aborts⟩
  case taken =>
    intro c refused
    have exec_eq := exec_testField_of_passes passes node pattern count
    refine ⟨fun unready => ?_, fun service idle => ⟨fun n named fitted => ?_, fun absent => ?_⟩⟩
    · change exec _ s = _
      rw [exec_eq, ownTestField_of_state (s := c) unready]; rfl
    · rw [exec_eq, ownTestField_of_fitted (s := c) service idle (fittedNode_of_fitted named fitted)]; rfl
    · change exec _ s = _
      rw [exec_eq, ownTestField_of_unfitted (s := c) service idle (fittedNode_of_none absent)]; rfl
  case judged =>
    intro r judged ended t
    have judged_eq : echoJudged received matched r = judged := echoJudged_eq received matched r
    refine ⟨fun more => ?_, fun last alive good => ?_, fun last alive bad => ?_⟩
    · exact (echoEnd_of_more more).trans (by rw [judged_eq]; rfl)
    · refine (echoEnd_of_last last alive).trans ?_
      rw [judged_eq, testVerdict_pass good, finishTest_of_not_fail (r := .pass) nofun]; rfl
    · refine (echoEnd_of_last last alive).trans ?_
      rw [judged_eq, testVerdict_fail bad, finishTest_fail]; rfl
  case missed => rw [missResponse_eq, echo, judgeEcho_of_echo echo]
  case unfitted =>
    intro ended responded missed
    refine ⟨fun echo => ⟨?_, ?_⟩, fun set => ⟨?_, ?_⟩⟩
    · change exec _ s = _
      rw [exec_fieldResponseReceived, fieldResponse_of_unfitted running (by rw [echo]; nofun) unfitted, judgeEcho_of_echo echo,
        echoMatches_eq]
      simp only [Fin.val_eq_zero_iff]; rfl
    · change exec _ s = _
      rw [exec_responseWindowEnd, windowEnd_of_unfitted running (by rw [echo]; nofun) unfitted, judgeEcho_of_echo echo]; rfl
    · change exec _ s = _
      rw [exec_fieldResponseReceived, fieldResponse_of_unfitted running (by rw [set]; nofun) unfitted,
        judgeEcho_of_set (by rw [set]; nofun)]; rfl
    · change exec _ s = _
      rw [exec_responseWindowEnd, windowEnd_of_unfitted running (by rw [set]; nofun) unfitted,
        judgeEcho_of_set (by rw [set]; nofun)]; rfl
  case aborts =>
    intro aborted
    have abort : abortTest s = aborted := abortTest_eq s
    refine ⟨fun new_mode running idle => ?_, fun new_mode running busy => ?_, fun new_mode still => ?_, fun due => ?_, afterTxn_of_not_due⟩
    · rw [flcMode_of_service new_mode, flcLeaveService_of_running running, idle]; exact abort
    · rw [flcMode_of_service new_mode, flcLeaveService_of_running running, if_pos (Option.isSome_iff_ne_none.2 busy)]; rfl
    · rw [flcMode_of_service new_mode, flcLeaveService_of_idle still]
    · rw [afterTxn_of_due due, abort]

end Sys2Proof.Machine
end

section

/-! PROOFS. The timers of motion and level (R64, R116, R118, R122, R125, R139). -/

namespace Sys2Proof.Machine

open Sys2Proof.Safety

/-! MRU: at rest and the settle timer (R64) -/

theorem exec_settleTimerExpiry (s : State) : exec .settleTimerExpiry s = .next (complete (settleExpiry s)) := rfl

theorem settleExpiry_of_stopped {s : State} (h : s.mru.settle = none) : settleExpiry s = s := by
  rw [settleExpiry, h]

theorem settleExpiry_of_running {s : State} (h : s.mru.settle ≠ none) :
    settleExpiry s = setAtRest true { s with mru := { s.mru with settle := none } } := by
  obtain ⟨ms, running⟩ := Option.ne_none_iff_exists'.1 h
  rw [settleExpiry, running]

theorem setAtRest_of_same {b : Bool} {s : State} (h : s.mru.atRest = b) : setAtRest b s = s := if_pos h

theorem setAtRest_of_change {b : Bool} {s : State} (h : s.mru.atRest ≠ b) : setAtRest b s = { s with
    mru := { s.mru with atRest := b }
    dsv := { s.dsv with atRest := b, outputs := outputsOf s.dsv.releaseOn b }
    mpi := offerPorts s.store (.doorPermit b (outputsOf s.dsv.releaseOn b) s.dsv.unsecured s.dsv.kneel) s.mpi
    inFlight := s.inFlight ++ [.atRest b] } := if_neg h

theorem outputsOf_atRest (on : PerDoor Bool) : outputsOf on true = .of on.get := by
  simp only [outputsOf, Bool.and_true]

theorem outputsOf_moving (on : PerDoor Bool) : outputsOf on false = .of fun _ => false := by
  simp only [outputsOf, Bool.and_false]

theorem settleExpiry_of_moving {s : State} (running : s.mru.settle ≠ none) (moving : s.mru.atRest = false) :
    settleExpiry s = { s with
      mru := { s.mru with atRest := true, settle := none }
      dsv := { s.dsv with atRest := true, outputs := .of s.dsv.releaseOn.get }
      mpi := offerPorts s.store (.doorPermit true (.of s.dsv.releaseOn.get) s.dsv.unsecured s.dsv.kneel) s.mpi
      inFlight := s.inFlight ++ [.atRest true] } := by
  have change : ({ s with mru := { s.mru with settle := none } } : State).mru.atRest ≠ true := by
    change s.mru.atRest ≠ true
    rw [moving]; nofun
  rw [settleExpiry_of_running running, setAtRest_of_change change, outputsOf_atRest]; rfl

/-- A recompute forms the speed, sets the settle timer and judges at_rest (R61 to R64). -/
theorem mruRecompute_eq (m : Mru) (s : State) : mruRecompute m s =
    setAtRest (atRestAfter (mruFormed m))
      { formSpeed m s with mru := { mruFormed m with settle := settleAfter s.store (mruFormed m) } } := by
  rw [mruRecompute, judgeRest, formSpeed_mru, formSpeed_store]

/-- The rows of R64 in which the vehicle moves, or its speed is not known. -/
theorem not_slow_iff (m : Mru) : (m.speedKnown = false ∨ 5 ≤ m.v) ↔ ¬ (m.speedKnown = true ∧ m.v < 5) := by
  rw [not_and_or, Bool.not_eq_true, not_lt]

theorem settleAfter_slow {m : Mru} (st : Store) (slow : m.speedKnown = true ∧ m.v < 5) (moving : m.atRest = false) :
    settleAfter st m = some (m.settle.getD st.tRest) := by
  obtain ⟨known, low⟩ := slow
  rw [settleAfter, known, moving, decide_eq_true low]; rfl

theorem settleAfter_of_atRest {m : Mru} (st : Store) (rest : m.atRest = true) : settleAfter st m = none := by
  rw [settleAfter, rest, Bool.not_true, Bool.and_false]; rfl

theorem settleAfter_of_moving {m : Mru} (st : Store) (fast : ¬ (m.speedKnown = true ∧ m.v < 5)) : settleAfter st m = none := by
  refine if_neg fun all => fast ?_
  rw [Bool.and_eq_true, Bool.and_eq_true, decide_eq_true_eq] at all
  exact all.1

theorem atRestAfter_of_slow {m : Mru} (slow : m.speedKnown = true ∧ m.v < 5) : atRestAfter m = m.atRest := by
  obtain ⟨known, low⟩ := slow
  rw [atRestAfter, known, decide_eq_true low, Bool.and_true, Bool.and_true]

theorem atRestAfter_of_moving {m : Mru} (fast : ¬ (m.speedKnown = true ∧ m.v < 5)) : atRestAfter m = false := by
  refine Bool.eq_false_iff.2 fun all => fast ?_
  rw [atRestAfter, Bool.and_eq_true, Bool.and_eq_true, decide_eq_true_eq, and_assoc] at all
  exact all.2

/-- A recompute that ends a rest clears at_rest, drives every output OFF and announces it (R64, R139, R140). -/
theorem mruRecompute_of_departed {m : Mru} (s : State) (rest : m.atRest = true)
    (fast : ¬ ((mruFormed m).speedKnown = true ∧ (mruFormed m).v < 5)) : mruRecompute m s = { formSpeed m s with
      mru := { mruFormed m with settle := none, atRest := false }
      dsv := { (formSpeed m s).dsv with atRest := false, outputs := .of fun _ => false }
      mpi := offerPorts (formSpeed m s).store (.doorPermit false (.of fun _ => false) (formSpeed m s).dsv.unsecured
        (formSpeed m s).dsv.kneel) (formSpeed m s).mpi
      inFlight := (formSpeed m s).inFlight ++ [.atRest false] } := by
  have changed : (mruFormed m).atRest ≠ false := by rw [show (mruFormed m).atRest = true from rest]; nofun
  rw [mruRecompute_eq, atRestAfter_of_moving fast, settleAfter_of_moving _ fast, setAtRest_of_change, outputsOf_moving]
  · rfl
  · exact changed

/-! LKU: valves (R116, R118) -/

theorem exec_persistenceTimerExpiry (k : Corner) (s : State) :
    exec (.persistenceTimerExpiry k) s = .next (complete (persistExpiry k s)) := rfl

theorem exec_valveRunTimerExpiry (k : Corner) (s : State) :
    exec (.valveRunTimerExpiry k) s = .next (complete (valveRunExpiry k s)) := rfl

section Valves

variable {s : State} {k : Corner}

theorem persistExpiry_of_stopped (h : (s.lku.corners.get k).persist = none) : persistExpiry k s = s := by
  rw [persistExpiry, h]

theorem persistExpiry_of_running {d : Dir} {ms : Nat} (h : (s.lku.corners.get k).persist = some (d, ms)) :
    persistExpiry k s = setCorner k (stepValve s.store d (s.lku.corners.get k)) s := by
  rw [persistExpiry, h]

theorem stepValve_eq (st : Store) (d : Dir) (c : CornerState) : stepValve st d c =
    { c with valve := if d = .low then .fill else .exhaust, valveRun := some st.tValve, persist := none } := by
  cases d <;> rfl

theorem valveRunExpiry_of_stopped (h : (s.lku.corners.get k).valveRun = none) : valveRunExpiry k s = s := by
  rw [valveRunExpiry, h]

theorem valveRunExpiry_of_running (h : (s.lku.corners.get k).valveRun ≠ none) : valveRunExpiry k s =
    detect .levelTimeout .lku (some (.lvl k)) (levelItem k (s.lku.corners.get k) s.lku.atRest)
      (setCorner k (forceHold (s.lku.corners.get k)) s) := by
  obtain ⟨ms, running⟩ := Option.ne_none_iff_exists'.1 h
  rw [valveRunExpiry, running]

end Valves

theorem lku_detect (k : FaultKind) (src : FaultSource) (ch : Option Channel) (item : List Byte) (s : State) :
    (detect k src ch item s).lku = s.lku := by
  rw [detect_frame]

/-! LKU: the kneel timer (R122, R125) -/

theorem exec_kneelTimerExpiry (s : State) : exec .kneelTimerExpiry s = .next (complete (kneelExpiry s)) := rfl

theorem kneelExpiry_of_stopped {s : State} (h : s.lku.kneelTimer = none) : kneelExpiry s = s := by
  rw [kneelExpiry, h]

theorem nearHeight_iff (st : Store) (target : Int) (h : Option Int) :
    nearHeight st target h = true ↔ ∃ x, h = some x ∧ |x - target| ≤ st.db := by
  cases h with
  | none => exact ⟨nofun, nofun⟩
  | some x =>
    rw [nearHeight, decide_eq_true_eq]
    exact ⟨fun near => ⟨x, rfl, near⟩, fun ⟨_, same, near⟩ => by cases same; exact near⟩

theorem atKneel_iff (st : Store) (c : CornerState) : atKneel st c = true ↔
    c.holder = some .doorKneel ∧ ∃ x, c.height = some x ∧ |x - st.kneelHeight| ≤ st.db := by
  rw [atKneel, Bool.and_eq_true, beq_iff_eq, nearHeight_iff]

theorem returned_iff (st : Store) (c : CornerState) : returned st c = true ↔
    ∃ target, c.effective = .num target ∧ ∃ x, c.height = some x ∧ |x - target| ≤ st.db := by
  unfold returned
  cases c.effective with
  | num t =>
    rw [nearHeight_iff]
    exact ⟨fun near => ⟨t, rfl, near⟩, fun ⟨_, same, near⟩ => by cases same; exact near⟩
  | _ => exact ⟨nofun, nofun⟩

/-- Where a LOWERING or RAISING kneel state takes its corners (R125). -/
theorem arrived_iff {l : Lku} (moves : l.kneel = .lowering ∨ l.kneel = .raising) (st : Store) (k : Corner) :
    arrived st l k = true ↔ if l.kneel = .lowering
      then (l.corners.get k).holder = some .doorKneel ∧ ∃ h, (l.corners.get k).height = some h ∧ |h - st.kneelHeight| ≤ st.db
      else ∃ target, (l.corners.get k).effective = .num target ∧
        ∃ h, (l.corners.get k).height = some h ∧ |h - target| ≤ st.db := by
  unfold arrived
  rcases moves with down | up
  · rw [down, if_pos rfl]; exact atKneel_iff _ _
  · rw [up, if_neg nofun]; exact returned_iff _ _

theorem kneelTimeoutState_eq {k : KneelState} (h : k = .lowering ∨ k = .raising) :
    kneelTimeoutState k = if k = .lowering then .kneeled else .normal := by
  rcases h with rfl | rfl <;> rfl

theorem kneelExpiry_of_running {s : State} (running : s.lku.kneelTimer ≠ none)
    (moves : s.lku.kneel = .lowering ∨ s.lku.kneel = .raising) :
    let raised := detect .kneelTimeout .lku (kneelAffected s.store s.lku) (kneelItem s.store s.lku) s
    let kneel := if s.lku.kneel = .lowering then KneelState.kneeled else .normal
    kneelExpiry s = { raised with
      lku := { s.lku with kneel := kneel, kneelTimer := none }
      inFlight := raised.inFlight ++ [.kneel kneel] } := by
  intro raised kneel
  obtain ⟨ms, timer⟩ := Option.ne_none_iff_exists'.1 running
  have expires : kneelExpiry s = setKneel (kneelTimeoutState s.lku.kneel) raised := by rw [kneelExpiry, timer]
  have stopped : kneelTimerOf raised.store kneel = none := by
    change kneelTimerOf raised.store (if s.lku.kneel = .lowering then KneelState.kneeled else .normal) = none
    split <;> rfl
  rw [expires, kneelTimeoutState_eq moves, setKneel, show raised.lku = s.lku from lku_detect _ _ _ _ _, stopped]

theorem groupList_sorted (st : Store) : st.groupList.Pairwise fun i j => cornerNo i < cornerNo j :=
  List.Pairwise.filter _ (by decide)

theorem kneelAffected_of_found {st : Store} {l : Lku} {k : Corner}
    (h : st.groupList.find? (fun k => !arrived st l k) = some k) : kneelAffected st l = some (.lvl k) := by
  rw [kneelAffected, h]

theorem kneelAffected_of_arrived {st : Store} {l : Lku} (h : ∀ k ∈ st.groupList, arrived st l k = true) :
    kneelAffected st l = st.groupList.head?.map Channel.lvl := by
  have none_left : st.groupList.find? (fun k => !arrived st l k) = none :=
    List.find?_eq_none.2 fun k mem => by rw [h k mem]; nofun
  rw [kneelAffected, none_left]
  cases st.groupList <;> rfl

/-- Settles O44. -/
theorem motionTimersExpire : Obligations.MotionTimersExpire := by
  unfold Obligations.MotionTimersExpire
  refine fun s => ⟨fun running moving => ?settled, fun stopped => ?_, fun m rest fast => ?departed, fun k d ms running => ?_,
    fun k stopped => ?_, fun k running => ?_, fun running moves => ?kneel, fun k running => ?valve, fun k stopped => ?_,
    fun running moves => ?kneeled, fun stopped => ?_⟩
  case settled =>
    refine ⟨settleExpiry s, rfl, ?_⟩
    rw [settleExpiry_of_moving running moving]
    exact ⟨rfl, fun n => PerDoor_get_of _ n, rfl, rfl⟩
  case departed =>
    intro f t
    have formed : t = _ := mruRecompute_of_departed s rest ((not_slow_iff _).1 fast)
    clear_value t
    subst formed
    exact ⟨rfl, rfl, rfl⟩
  case kneel =>
    intro near arrives group item
    have arrives_iff : ∀ k, arrived s.store s.lku k = true ↔ arrives k := fun k => arrived_iff moves s.store k
    refine ⟨kneelAffected s.store s.lku, fun k mem late first => ?_, fun all => ?_, ?_⟩
    · refine kneelAffected_of_found (find?_of_lowest (groupList_sorted s.store) mem ?_ fun j earlier lower fits => ?_)
      · rw [Bool.not_eq_true', Bool.eq_false_iff]; exact mt (arrives_iff k).1 late
      · rw [(arrives_iff j).2 (first j earlier lower)] at fits; cases fits
    · exact kneelAffected_of_arrived fun k mem => (arrives_iff k).2 (all k mem)
    · intro raised kneel
      rw [exec_kneelTimerExpiry, kneelExpiry_of_running running moves]; rfl
  case valve =>
    refine ⟨valveRunExpiry k s, rfl, ?_⟩
    rw [valveRunExpiry_of_running running]
    exact ⟨lku_detect _ _ _ _ _, fun awake => detect_has _ _ _ _ _ awake⟩
  case kneeled =>
    refine ⟨kneelExpiry s, rfl, ?_⟩
    rw [kneelExpiry_of_running running moves]
    exact ⟨rfl, fun awake => detect_has s _ _ _ _ awake⟩
  · rw [exec_settleTimerExpiry, settleExpiry_of_stopped stopped]
  · rw [exec_persistenceTimerExpiry, persistExpiry_of_running running, stepValve_eq]; rfl
  · rw [exec_persistenceTimerExpiry, persistExpiry_of_stopped stopped]
  · rw [exec_valveRunTimerExpiry, valveRunExpiry_of_running running]; rfl
  · rw [exec_valveRunTimerExpiry, valveRunExpiry_of_stopped stopped]
  · rw [exec_kneelTimerExpiry, kneelExpiry_of_stopped stopped]

end Sys2Proof.Machine
end

section

/-! PROOFS. The doors: derived states, release outputs and the kneel state as DSV takes them (R133, R134, R139, R140). -/

namespace Sys2Proof.Machine

open Sys2Proof.Safety

/-! The derived states and the contradictions (R133, R134) -/

theorem doorUnsecured_iff (st : Store) (d : Dsv) (n : Door) : doorUnsecured st d n = true ↔
    st.doorFitted n = true ∧ ¬ ((d.contacts.get n).closed = true ∧ d.reports.get n = .closedLocked) := by
  rw [doorUnsecured, Bool.and_eq_true, Bool.not_eq_true', Bool.eq_false_iff, ne_eq, Bool.and_eq_true, beq_iff_eq]

theorem contradicts_iff (d : Dsv) (n : Door) : contradicts d n = true ↔
    ((d.contacts.get n).closed = true ∧ (d.reports.get n = .opened ∨ d.reports.get n = .obstructed)) ∨
      ((d.contacts.get n).closed = false ∧ d.reports.get n = .closedLocked) := by
  unfold contradicts
  cases (d.contacts.get n).closed with
  | true => simp only [if_true, Bool.or_eq_true, beq_iff_eq, true_and, Bool.true_eq_false, false_and, or_false]
  | false => simp only [Bool.false_eq_true, if_false, beq_iff_eq, false_and, true_and, false_or]

theorem doorContradicts_iff (st : Store) (d : Dsv) (n : Door) : doorContradicts st d n = true ↔ st.doorFitted n = true ∧
    (((d.contacts.get n).closed = true ∧ (d.reports.get n = .opened ∨ d.reports.get n = .obstructed)) ∨
      ((d.contacts.get n).closed = false ∧ d.reports.get n = .closedLocked)) := by
  rw [doorContradicts, Bool.and_eq_true, contradicts_iff]

section Formed

variable {st : Store} {d : Dsv} {n : Door}

theorem unsecured_dsvFormed (st : Store) (d : Dsv) (n : Door) : (dsvFormed st d).unsecured.get n = doorUnsecured st d n :=
  PerDoor_get_of _ n

theorem raised_dsvFormed (st : Store) (d : Dsv) (n : Door) :
    (dsvFormed st d).raised.get n = (d.raised.get n && doorContradicts st d n) := PerDoor_get_of _ n

theorem disagree_dsvFormed (st : Store) (d : Dsv) (n : Door) : (dsvFormed st d).disagree.get n = disagreeAfter st d n :=
  PerDoor_get_of _ n

theorem disagreeAfter_of_fresh (contra : doorContradicts st d n = true) (fresh : d.raised.get n = false) :
    disagreeAfter st d n = some ((d.disagree.get n).getD st.tDoorDisagree) := by
  rw [disagreeAfter, if_pos contra, fresh]; rfl

theorem disagreeAfter_of_raised (contra : doorContradicts st d n = true) (raised : d.raised.get n = true) :
    disagreeAfter st d n = none := by
  rw [disagreeAfter, if_pos contra, if_pos raised]

theorem disagreeAfter_of_ended (agree : doorContradicts st d n = false) : disagreeAfter st d n = none := by
  rw [disagreeAfter, agree]; rfl

end Formed

theorem dsv_formDoors (d : Dsv) (s : State) : (formDoors d s).dsv = dsvFormed s.store d := by
  unfold formDoors; split <;> rfl

theorem formDoors_of_same {d : Dsv} {s : State} (h : (dsvFormed s.store d).unsecured = s.dsv.unsecured) :
    formDoors d s = { s with dsv := dsvFormed s.store d } := if_pos h

theorem formDoors_of_change {d : Dsv} {s : State} (h : (dsvFormed s.store d).unsecured ≠ s.dsv.unsecured) :
    formDoors d s = { s with
      dsv := dsvFormed s.store d
      mpi := offerPorts s.store (permitNotice (dsvFormed s.store d)) s.mpi
      inFlight := s.inFlight ++ [.doors (dsvFormed s.store d).unsecured] } := if_neg h

/-- What a formation of the door states hands on, and what it leaves alone (R133, R140). -/
theorem formDoors_announced (d : Dsv) (s : State) :
    let t := formDoors d s
    (t.dsv.unsecured = s.dsv.unsecured → t.inFlight = s.inFlight ∧ t.mpi = s.mpi) ∧
    (t.dsv.unsecured ≠ s.dsv.unsecured →
      t.inFlight = s.inFlight ++ [.doors t.dsv.unsecured] ∧
      t.mpi = offerPorts s.store (.doorPermit t.dsv.atRest t.dsv.outputs t.dsv.unsecured t.dsv.kneel) s.mpi) ∧
    { t with dsv := s.dsv, inFlight := s.inFlight, mpi := s.mpi } = s := by
  intro t
  have formed : t.dsv = dsvFormed s.store d := dsv_formDoors d s
  rw [formed]
  by_cases same : (dsvFormed s.store d).unsecured = s.dsv.unsecured
  · have whole : t = _ := formDoors_of_same same
    rw [whole]
    exact ⟨fun _ => ⟨rfl, rfl⟩, absurd same, rfl⟩
  · have whole : t = _ := formDoors_of_change same
    rw [whole]
    exact ⟨fun h => absurd h same, fun _ => ⟨rfl, rfl⟩, rfl⟩

/-! The release outputs and the kneel state (R139, R140) -/

/-- DSV as a DREL channel's setpoint is announced (R139). -/
def dsvReleased (n : Door) (sp : Setpoint) (s : State) : Dsv :=
  { s.dsv with
    releaseOn := s.dsv.releaseOn.set n (decide (sp = .on))
    outputs := .of fun m => (s.dsv.releaseOn.set n (decide (sp = .on))).get m && s.mru.atRest }

theorem handle_drel (n : Door) (holder : Option Source) (sp : Setpoint) (changed : Bool) (s : State) :
    handle (.channel (.drel n) holder sp changed) s = if (dsvReleased n sp s).outputs = s.dsv.outputs
      then { s with dsv := dsvReleased n sp s }
      else { s with dsv := dsvReleased n sp s, mpi := offerPorts s.store (permitNotice (dsvReleased n sp s)) s.mpi } := rfl

theorem dsv_handle_drel (n : Door) (holder : Option Source) (sp : Setpoint) (changed : Bool) (s : State) :
    (handle (.channel (.drel n) holder sp changed) s).dsv = dsvReleased n sp s := by
  rw [handle_drel]; split <;> rfl

theorem outputs_dsvReleased (n : Door) (sp : Setpoint) (s : State) :
    (dsvReleased n sp s).outputs.get n = true ↔ sp = .on ∧ s.mru.atRest = true := by
  rw [dsvReleased, PerDoor_get_of, PerDoor_get_set, if_pos rfl, Bool.and_eq_true, decide_eq_true_eq]

theorem dsvKneel_of_same {k : KneelState} {s : State} (h : s.dsv.kneel = k) : dsvKneel k s = s := if_pos h

theorem dsvKneel_of_change {k : KneelState} {s : State} (h : s.dsv.kneel ≠ k) : dsvKneel k s = { s with
    dsv := { s.dsv with kneel := k }
    mpi := offerPorts s.store (permitNotice { s.dsv with kneel := k }) s.mpi } := if_neg h

/-- Settles O40. -/
theorem doorStatesFormed : Obligations.DoorStatesFormed := by
  unfold Obligations.DoorStatesFormed
  refine ⟨fun d s => ?formed, fun n holder sp changed s => ?released, fun b s => ⟨fun same => setAtRest_of_same same,
    fun change => (setAtRest_of_change change).trans rfl⟩, fun k s => ⟨rfl, fun same => dsvKneel_of_same same,
    fun change => (dsvKneel_of_change change).trans rfl⟩⟩
  case formed =>
    intro t
    have dsv : t.dsv = dsvFormed s.store d := dsv_formDoors d s
    refine ⟨fun n => ?_, fun n => ?_, formDoors_announced d s⟩
    · rw [dsv, unsecured_dsvFormed]; exact doorUnsecured_iff _ _ _
    · intro contradicting
      have contra_iff : doorContradicts s.store d n = true ↔ contradicting := doorContradicts_iff s.store d n
      rw [dsv, disagree_dsvFormed, raised_dsvFormed]
      refine ⟨fun contra fresh => ?_, fun contra raised => ⟨?_, ?_⟩, fun agree => ?_⟩
      · exact disagreeAfter_of_fresh (contra_iff.2 contra) fresh
      · exact disagreeAfter_of_raised (contra_iff.2 contra) raised
      · rw [raised, contra_iff.2 contra]; rfl
      · have ended : doorContradicts s.store d n = false := Bool.eq_false_iff.2 (mt contra_iff.1 agree)
        exact ⟨disagreeAfter_of_ended ended, by rw [ended, Bool.and_false]⟩
  case released =>
    intro t copies d
    refine ⟨?_, fun same => if_pos same, fun change => if_neg change⟩
    rw [show t.dsv = dsvReleased n sp s from dsv_handle_drel n holder sp changed s]
    exact outputs_dsvReleased n sp s

end Sys2Proof.Machine
end

section

/-! PROOFS. The doors: reports, contact samples and timers (R130 to R134, R141). -/

namespace Sys2Proof.Machine

open Sys2Proof.Safety

theorem calmState_formDoors {s : State} (h : CalmState s) (d : Dsv) : CalmState (formDoors d s) :=
  (formDoors_actsOnWrite d s).calm h

theorem store_formDoors (d : Dsv) (s : State) : (formDoors d s).store = s.store := by
  unfold formDoors; split <;> rfl

theorem fu_formDoors (d : Dsv) (s : State) : (formDoors d s).fu = s.fu := by
  unfold formDoors; split <;> rfl

/-! DOOR_STATUS (R131) -/

theorem doorReport_ofCode (n : Nat) :
    DoorReport.ofCode n = [DoorReport.closedLocked, .closed, .opened, .obstructed].getD n .unknown := by
  rcases n with _ | _ | _ | _ | _ <;> rfl

theorem exec_doorStatus_of_passes {p : Port} {r : Byte} {s : State} (h : Passes p r doorPort s) (reports : PerDoor Byte) :
    exec (.doorStatus p r reports) s = .next (owned p 0x20 (ownDoorStatus reports (closeTransfer p s))) :=
  congrArg Host.Outcome.next (request_of_passes h _ _)

/-- Settles O39. -/
theorem doorStatusIsTaken : Obligations.DoorStatusTaken := by
  unfold Obligations.DoorStatusTaken
  refine ⟨doorReport_ofCode, fun p r reports s passes => ?_, fun p r reports s passes nothing => ?_⟩
  · intro stored
    exact ⟨_, rfl, exec_doorStatus_of_passes passes reports⟩
  · generalize hd : ({ s.dsv with reports := reportsStored s.store reports, since := some 0, stale := some s.store.tDoorStale } : Dsv) = d
    have quiet : CalmState (closeTransfer p s) := calmState_of_empty nothing
    have kept := complete_calm _ (calmState_formDoors quiet d)
    have dsv : (formDoors d (closeTransfer p s)).dsv = dsvFormed s.store d := dsv_formDoors _ _
    have taken : doorStatusTaken reports (closeTransfer p s) = formDoors d (closeTransfer p s) := by rw [← hd]; rfl
    refine ⟨complete (formDoors d (closeTransfer p s)), ?_, fun n => ?_, ?_, ?_, ?_, fun n => ?_⟩
    · rw [exec_doorStatus_of_passes passes, ownDoorStatus, taken]; rfl
    · rw [kept.reports, dsv, ← hd]; exact PerDoor_get_of _ n
    · rw [kept.since, dsv, ← hd]; rfl
    · rw [kept.stale, dsv, ← hd]; rfl
    · rw [kept.contacts, dsv, ← hd]; rfl
    · rw [kept.unsecured, kept.contacts, kept.reports, dsv, unsecured_dsvFormed]
      exact doorUnsecured_iff s.store d n

/-! Contact samples (R130) -/

theorem exec_contactSample_powerup {s : State} (h : s.mode = .powerup) (closed : PerDoor Bool) :
    exec (.contactSample closed) s = .next s := by
  change (if s.mode = .powerup then goes s else goes (complete (sampleContacts closed s))) = _
  rw [if_pos h]; rfl

theorem exec_contactSample {s : State} (h : s.mode ≠ .powerup) (closed : PerDoor Bool) :
    exec (.contactSample closed) s = .next (complete (sampleContacts closed s)) := by
  change (if s.mode = .powerup then goes s else goes (complete (sampleContacts closed s))) = _
  rw [if_neg h]; rfl

section Sample

variable {st : Store} {closed : Bool} {c : Contact}

theorem contactSampled_of_same (h : closed = c.closed) : contactSampled st closed c = ⟨c.closed, 0⟩ := if_pos h

theorem contactSampled_of_run (differs : closed ≠ c.closed) (short : c.run + 1 < st.debounce) :
    contactSampled st closed c = ⟨c.closed, c.run + 1⟩ := by
  rw [contactSampled, if_neg differs, if_pos short]

theorem contactSampled_of_long (differs : closed ≠ c.closed) (long : st.debounce ≤ c.run + 1) :
    contactSampled st closed c = ⟨closed, 0⟩ := by
  rw [contactSampled, if_neg differs, if_neg (not_lt.2 long)]

end Sample

/-- A sample that moves the run count alone (R130). -/
theorem sampleContact_of_kept {n : Door} {closed : Bool} {s : State}
    (h : (contactSampled s.store closed (s.dsv.contacts.get n)).closed = (s.dsv.contacts.get n).closed) :
    sampleContact n closed s = { s with dsv := { s.dsv with
      contacts := s.dsv.contacts.set n (contactSampled s.store closed (s.dsv.contacts.get n)) } } := if_pos h

theorem sampleContact_of_turned {n : Door} {closed : Bool} {s : State}
    (h : (contactSampled s.store closed (s.dsv.contacts.get n)).closed ≠ (s.dsv.contacts.get n).closed) :
    sampleContact n closed s = formDoors { s.dsv with
      contacts := s.dsv.contacts.set n (contactSampled s.store closed (s.dsv.contacts.get n)) } s := if_neg h

/-- One sample of one contact, with what it causes. -/
def takeSample (closed : PerDoor Bool) (n : Door) (s : State) : State :=
  settle settleLimit (sampleContact n (closed.get n) s)

theorem sampleContacts_eq (closed : PerDoor Bool) (s : State) : sampleContacts closed s =
    takeSample closed .d4 (takeSample closed .d3 (takeSample closed .d2 (takeSample closed .d1 s))) := by
  simp only [sampleContacts, Door.all, List.foldl_cons, List.foldl_nil, takeSample]

/-- The derived states stand as R133 and R134 give them. -/
def DoorsFormed (s : State) : Prop := ∀ n, s.dsv.unsecured.get n = doorUnsecured s.store s.dsv n ∧
  (s.dsv.disagree.get n ≠ none ↔ doorContradicts s.store s.dsv n = true ∧ s.dsv.raised.get n = false)

theorem doorUnsecured_congr {st : Store} {d e : Dsv} {n : Door} (reports : e.reports = d.reports)
    (contact : (e.contacts.get n).closed = (d.contacts.get n).closed) : doorUnsecured st e n = doorUnsecured st d n := by
  rw [doorUnsecured, doorUnsecured, reports, contact]

theorem doorContradicts_congr {st : Store} {d e : Dsv} {n : Door} (reports : e.reports = d.reports)
    (contact : (e.contacts.get n).closed = (d.contacts.get n).closed) : doorContradicts st e n = doorContradicts st d n := by
  rw [doorContradicts, doorContradicts, contradicts, contradicts, reports, contact]

theorem doorsFormed_formDoors (d : Dsv) (s : State) : DoorsFormed (formDoors d s) := by
  intro n
  rw [dsv_formDoors, store_formDoors, unsecured_dsvFormed, disagree_dsvFormed, raised_dsvFormed,
    doorContradicts_congr (d := d) rfl rfl]
  refine ⟨(doorUnsecured_congr rfl rfl).symm, ?_⟩
  by_cases contra : doorContradicts s.store d n = true
  · cases raised : d.raised.get n with
    | true => rw [disagreeAfter_of_raised contra raised, contra]; exact ⟨fun h => absurd rfl h, nofun⟩
    | false => rw [disagreeAfter_of_fresh contra raised]; exact ⟨fun _ => ⟨contra, rfl⟩, fun _ => nofun⟩
  · rw [disagreeAfter_of_ended (Bool.eq_false_iff.2 contra)]
    exact ⟨fun h => absurd rfl h, fun both => absurd both.1 contra⟩

/-- They stand as long as the debounced values and the reports do. -/
theorem DoorsFormed.of_inputs {s t : State} (formed : DoorsFormed s) (store : t.store = s.store)
    (unsecured : t.dsv.unsecured = s.dsv.unsecured) (disagree : t.dsv.disagree = s.dsv.disagree)
    (raised : t.dsv.raised = s.dsv.raised) (reports : t.dsv.reports = s.dsv.reports)
    (values : ∀ n, (t.dsv.contacts.get n).closed = (s.dsv.contacts.get n).closed) : DoorsFormed t := by
  intro n
  rw [unsecured, disagree, raised, store, doorUnsecured_congr reports (values n), doorContradicts_congr reports (values n)]
  exact formed n

theorem DoorsFormed.of_same {s t : State} (formed : DoorsFormed s) (h : Same s t) : DoorsFormed t :=
  formed.of_inputs h.store h.unsecured h.disagree h.raised h.reports fun n => by rw [h.contacts]

/-- What one sample of one contact does to the contacts and to the formed states. -/
theorem sampleContact_contacts (n : Door) (closed : Bool) (s : State) : (sampleContact n closed s).dsv.contacts =
    s.dsv.contacts.set n (contactSampled s.store closed (s.dsv.contacts.get n)) := by
  unfold sampleContact
  split
  · rfl
  · rw [dsv_formDoors]; rfl

theorem sampleContact_reports (n : Door) (closed : Bool) (s : State) :
    (sampleContact n closed s).dsv.reports = s.dsv.reports := by
  unfold sampleContact
  split
  · rfl
  · rw [dsv_formDoors]; rfl

theorem sampleContact_store (n : Door) (closed : Bool) (s : State) : (sampleContact n closed s).store = s.store := by
  unfold sampleContact
  split
  · rfl
  · exact store_formDoors _ _

theorem calmState_sampleContact {s : State} (h : CalmState s) (n : Door) (closed : Bool) :
    CalmState (sampleContact n closed s) := by
  unfold sampleContact
  split
  · exact h
  · exact calmState_formDoors h _

/-- A sample forms the states anew, or leaves every debounced value and the states as they are. -/
theorem sampleContact_formed (n : Door) (closed : Bool) (s : State) : DoorsFormed (sampleContact n closed s) ∨
    (∀ m, ((sampleContact n closed s).dsv.contacts.get m).closed = (s.dsv.contacts.get m).closed) ∧
      (DoorsFormed s → DoorsFormed (sampleContact n closed s)) := by
  by_cases kept : (contactSampled s.store closed (s.dsv.contacts.get n)).closed = (s.dsv.contacts.get n).closed
  · rw [sampleContact_of_kept kept]
    have same : ∀ m, ((s.dsv.contacts.set n (contactSampled s.store closed (s.dsv.contacts.get n))).get m).closed =
        (s.dsv.contacts.get m).closed := fun m => by
      rw [PerDoor_get_set]
      split
      · subst m; exact kept
      · rfl
    exact .inr ⟨same, fun formed => formed.of_inputs rfl rfl rfl rfl rfl same⟩
  · rw [sampleContact_of_turned kept]
    exact .inl (doorsFormed_formDoors _ _)

/-- `t` is `s` once the contacts `done` have been sampled. -/
structure Sampled (closed : PerDoor Bool) (done : List Door) (s t : State) : Prop where
  calm : CalmState t
  store : t.store = s.store
  reports : t.dsv.reports = s.dsv.reports
  contacts : ∀ n, t.dsv.contacts.get n =
    if n ∈ done then contactSampled s.store (closed.get n) (s.dsv.contacts.get n) else s.dsv.contacts.get n
  formed : (∃ n, (t.dsv.contacts.get n).closed ≠ (s.dsv.contacts.get n).closed) → DoorsFormed t

theorem Sampled.start {closed : PerDoor Bool} {s : State} (h : CalmState s) : Sampled closed [] s s where
  calm := h
  store := rfl
  reports := rfl
  contacts := fun _ => rfl
  formed := fun ⟨_, differs⟩ => absurd rfl differs

/-- What the consequences leave alone. -/
theorem Sampled.of_same {closed : PerDoor Bool} {done : List Door} {s t u : State} (h : Sampled closed done s t)
    (same : Same t u) (calm : CalmState u) : Sampled closed done s u where
  calm := calm
  store := same.store.trans h.store
  reports := same.reports.trans h.reports
  contacts := fun n => by rw [same.contacts]; exact h.contacts n
  formed := fun changed => (h.formed (by rw [same.contacts] at changed; exact changed)).of_same same

theorem Sampled.sampleContact {closed : PerDoor Bool} {done : List Door} {s t : State} (h : Sampled closed done s t)
    {n : Door} (fresh : n ∉ done) : Sampled closed (n :: done) s (sampleContact n (closed.get n) t) where
  calm := calmState_sampleContact h.calm n _
  store := (sampleContact_store n _ t).trans h.store
  reports := (sampleContact_reports n _ t).trans h.reports
  contacts := fun m => by
    rw [sampleContact_contacts, PerDoor_get_set]
    by_cases here : m = n
    · subst m
      rw [if_pos rfl, if_pos List.mem_cons_self, h.contacts, if_neg fresh, h.store]
    · rw [if_neg here, h.contacts]
      simp only [List.mem_cons, here, false_or]
  formed := fun ⟨m, changed⟩ => by
    rcases sampleContact_formed n (closed.get n) t with formed | ⟨values, keeps⟩
    · exact formed
    · rw [values m] at changed
      exact keeps (h.formed ⟨m, changed⟩)

theorem Sampled.takeSample {closed : PerDoor Bool} {done : List Door} {s t : State} (h : Sampled closed done s t)
    {n : Door} (fresh : n ∉ done) : Sampled closed (n :: done) s (takeSample closed n t) := by
  have sampled := h.sampleContact fresh
  obtain ⟨same, calm⟩ := settle_calm _ settleLimit sampled.calm
  exact sampled.of_same same calm

theorem sampled_sampleContacts {closed : PerDoor Bool} {s : State} (h : CalmState s) :
    Sampled closed [.d4, .d3, .d2, .d1] s (sampleContacts closed s) := by
  rw [sampleContacts_eq]
  exact ((((Sampled.start h).takeSample (n := .d1) (by decide)).takeSample (n := .d2) (by decide)).takeSample (n := .d3)
    (by decide)).takeSample (n := .d4) (by decide)

theorem contacts_of_sampled {closed : PerDoor Bool} {s t : State} (h : Sampled closed [.d4, .d3, .d2, .d1] s t) (n : Door) :
    t.dsv.contacts.get n = contactSampled s.store (closed.get n) (s.dsv.contacts.get n) := by
  rw [h.contacts, if_pos (by cases n <;> decide)]

/-- A contact whose debounced value stays: the run count alone moves (R130). -/
def runCounted (closed : Bool) (c : Contact) : Contact := ⟨c.closed, if closed = c.closed then 0 else c.run + 1⟩

theorem contactSampled_of_counted {st : Store} {closed : Bool} {c : Contact}
    (h : closed = c.closed ∨ c.run + 1 < st.debounce) : contactSampled st closed c = runCounted closed c := by
  by_cases same : closed = c.closed
  · rw [contactSampled_of_same same, runCounted, if_pos same]
  · rw [contactSampled_of_run same (h.resolve_left same), runCounted, if_neg same]

/-- The run count of contact `n` moves. -/
def countSample (closed : PerDoor Bool) (n : Door) (s : State) : State :=
  { s with dsv := { s.dsv with contacts := s.dsv.contacts.set n (runCounted (closed.get n) (s.dsv.contacts.get n)) } }

/-- Such a sample announces nothing, so nothing follows from it. -/
theorem takeSample_of_counted {closed : PerDoor Bool} {n : Door} {s : State} (nothing : s.inFlight = [])
    (h : closed.get n = (s.dsv.contacts.get n).closed ∨ (s.dsv.contacts.get n).run + 1 < s.store.debounce) :
    takeSample closed n s = countSample closed n s := by
  have counted := contactSampled_of_counted h
  rw [takeSample, sampleContact_of_kept (by rw [counted]; rfl), counted]
  exact settle_of_empty _ _ nothing

theorem sampleContacts_of_counted {closed : PerDoor Bool} {s : State} (nothing : s.inFlight = [])
    (h : ∀ n, closed.get n = (s.dsv.contacts.get n).closed ∨ (s.dsv.contacts.get n).run + 1 < s.store.debounce) :
    sampleContacts closed s = { s with dsv := { s.dsv with
      contacts := .of fun n => runCounted (closed.get n) (s.dsv.contacts.get n) } } := by
  rw [sampleContacts_eq, takeSample_of_counted (n := .d1) nothing (h .d1),
    takeSample_of_counted (n := .d2) (s := countSample closed .d1 s) nothing (h .d2),
    takeSample_of_counted (n := .d3) (s := countSample closed .d2 (countSample closed .d1 s)) nothing (h .d3),
    takeSample_of_counted (n := .d4) (s := countSample closed .d3 (countSample closed .d2 (countSample closed .d1 s)))
      nothing (h .d4)]
  rfl

/-- Settles O41. -/
theorem contactsSampled : Obligations.ContactsSampled := by
  unfold Obligations.ContactsSampled
  refine ⟨fun closed s down => exec_contactSample_powerup down closed, fun closed s awake nothing => ?sampled,
    fun closed s awake => ?order, fun n closed s => ?one, fun closed s awake nothing counted => ?_⟩
  case sampled =>
    have calm : CalmState s := calmState_of_empty nothing
    have sampled := sampled_sampleContacts (closed := closed) calm
    have kept := complete_calm _ sampled.calm
    have contacts : ∀ n, (complete (sampleContacts closed s)).dsv.contacts.get n =
        contactSampled s.store (closed.get n) (s.dsv.contacts.get n) := fun n => by
      rw [kept.contacts]; exact contacts_of_sampled sampled n
    refine ⟨_, exec_contactSample awake closed, fun n => ?_, fun changed n => ?_, kept.reports.trans sampled.reports⟩
    · intro c
      rw [contacts n]
      exact ⟨fun same => contactSampled_of_same same, fun differs short => contactSampled_of_run differs short,
        fun differs long => contactSampled_of_long differs long⟩
    · have formed := (sampled.formed (by rw [kept.contacts] at changed; exact changed)).of_same kept n
      rwa [kept.store.trans sampled.store] at formed
  case order =>
    intro taken
    rw [exec_contactSample awake, sampleContacts_eq]
    simp only [takeSample, taken]
  case one =>
    intro c counted t
    refine ⟨fun same => ?_, fun differs short => ?_, fun differs long => ?_⟩
    · have value := contactSampled_of_same (st := s.store) same
      exact (sampleContact_of_kept (by rw [value])).trans (by rw [value])
    · have value := contactSampled_of_run (st := s.store) differs short
      exact (sampleContact_of_kept (by rw [value])).trans (by rw [value])
    · have value := contactSampled_of_long (st := s.store) differs long
      have formed : t = formDoors { s.dsv with contacts := s.dsv.contacts.set n ⟨closed, 0⟩ } s :=
        (sampleContact_of_turned (by rw [value]; exact differs)).trans (by rw [value])
      clear_value t
      subst formed
      have told := formDoors_announced { s.dsv with contacts := s.dsv.contacts.set n ⟨closed, 0⟩ } s
      refine ⟨rfl, fun m => ?_, ?_⟩
      · have formed := (doorsFormed_formDoors { s.dsv with contacts := s.dsv.contacts.set n ⟨closed, 0⟩ } s m).1
        rwa [store_formDoors] at formed
      · simp only [dsv_formDoors] at told ⊢
        exact told
  · rw [exec_contactSample awake, sampleContacts_of_counted nothing counted]; rfl

end Sys2Proof.Machine
end

section

/-! PROOFS. The doors: the staleness and disagreement timers, and the requests of the door port (R132, R134 to R138, R141). -/

namespace Sys2Proof.Machine

open Sys2Proof.Safety

/-! The timers (R132, R134, R141) -/

theorem exec_doorStalenessExpiry (s : State) : exec .doorStalenessExpiry s = .next (complete (staleExpiry s)) := rfl

theorem exec_doorDisagreeExpiry (n : Door) (s : State) :
    exec (.doorDisagreeExpiry n) s = .next (complete (disagreeExpiry n s)) := rfl

theorem dsv_detect (k : FaultKind) (src : FaultSource) (ch : Option Channel) (item : List Byte) (s : State) :
    (detect k src ch item s).dsv = s.dsv := by
  rw [detect_frame]

/-- The time since the last DOOR_STATUS, in two bytes that are free while there is none (Log 7). -/
theorem sinceWord_heard (free place : Nat) (since : Option Nat) : match since with
    | some ms => sinceWord free place since = word ms
    | none => (sinceWord free place since).length = 2 := by
  cases since <;> rfl

theorem staleExpiry_of_stopped {s : State} (h : s.dsv.stale = none) : staleExpiry s = s := by
  rw [staleExpiry, h]

/-- The state as DOOR_LINK_STALE has been raised (R132). -/
def staleRaised (s : State) : State :=
  detect .doorLinkStale (.port .d) none (staleItem s.freeCount s.dsv) (drawFree s)

theorem staleExpiry_of_running {s : State} (h : s.dsv.stale ≠ none) : staleExpiry s =
    formDoors { s.dsv with reports := .of fun _ => .unknown, stale := none } (staleRaised s) := by
  obtain ⟨ms, running⟩ := Option.ne_none_iff_exists'.1 h
  have dsv : (staleRaised s).dsv = s.dsv := dsv_detect _ _ _ _ _
  rw [staleExpiry, running]
  change formDoors { (staleRaised s).dsv with reports := _, stale := _ } (staleRaised s) = _
  rw [dsv]

theorem disagreeExpiry_of_stopped {n : Door} {s : State} (h : s.dsv.disagree.get n = none) : disagreeExpiry n s = s := by
  rw [disagreeExpiry, h]

/-- DSV as a disagreement timer runs out (R134). -/
def dsvDisagreed (n : Door) (d : Dsv) : Dsv :=
  { d with disagree := d.disagree.set n none, raised := d.raised.set n true }

theorem disagreeExpiry_of_running {n : Door} {s : State} (h : s.dsv.disagree.get n ≠ none) : disagreeExpiry n s =
    detect .doorDisagree .dsv (some (.drel n)) (disagreeItem s.freeCount s.dsv n)
      (drawFree { s with dsv := dsvDisagreed n s.dsv }) := by
  obtain ⟨ms, running⟩ := Option.ne_none_iff_exists'.1 h
  rw [disagreeExpiry, running]; rfl

/-- Settles O42. -/
theorem doorTimersExpire : Obligations.DoorTimersExpire := by
  unfold Obligations.DoorTimersExpire
  refine fun s => ⟨?items, fun running nothing => ?stale, fun stopped => ?_, fun n running nothing => ?disagree,
    fun n stopped => ?_⟩
  case items =>
    intro heard drawn
    have time : heard (sinceWord s.freeCount 0 s.dsv.since) := sinceWord_heard s.freeCount 0 s.dsv.since
    refine ⟨fun running => ⟨_, time, ?_⟩, fun n running => ⟨_, time, ?_⟩⟩
    · intro raised
      rw [exec_doorStalenessExpiry, staleExpiry_of_running running]; rfl
    · rw [exec_doorDisagreeExpiry, disagreeExpiry_of_running running]; rfl
  case stale =>
    have raised : CalmState (staleRaised s) := calmState_detect (s := drawFree s) nothing _ _ _ _
    have kept := complete_calm _ (calmState_formDoors raised { s.dsv with reports := .of fun _ => .unknown, stale := none })
    refine ⟨_, (exec_doorStalenessExpiry s).trans (by rw [staleExpiry_of_running running]), fun awake => ?_, fun n => ?_, ?_,
      fun n => ?_, ?_, ?_⟩
    · refine kept.statuses _ ?_
      rw [fu_formDoors]
      exact detect_has (drawFree s) _ _ _ _ awake
    · rw [kept.reports, dsv_formDoors]; exact PerDoor_get_of _ n
    · rw [kept.stale, dsv_formDoors]; rfl
    · have store : (staleRaised s).store = s.store := detect_store _ _ _ _ _
      rw [kept.unsecured, dsv_formDoors, unsecured_dsvFormed, store, doorUnsecured, PerDoor_get_of]
      exact (congrArg _ (congrArg _ (Bool.and_false _))).trans (Bool.and_true _)
    · rw [kept.contacts, dsv_formDoors]; rfl
    · rw [kept.since, dsv_formDoors]; rfl
  case disagree =>
    generalize hu : drawFree { s with dsv := dsvDisagreed n s.dsv } = u
    have quiet : u.inFlight = [] := by rw [← hu]; exact nothing
    have mode : u.mode = s.mode := by rw [← hu]; rfl
    have dsv : u.dsv = dsvDisagreed n s.dsv := by rw [← hu]; rfl
    have kept := (detect_mild u .doorDisagree .dsv (some (.drel n)) (disagreeItem s.freeCount s.dsv n)).same.trans
      (complete_calm _ (calmState_detect quiet _ _ _ _))
    refine ⟨_, (exec_doorDisagreeExpiry n s).trans (by rw [disagreeExpiry_of_running running, hu]), fun awake => ?_, ?_, ?_,
      fun m other => ?_, ?_, ?_, ?_⟩
    · exact complete_detect_has quiet (by rw [mode]; exact awake) _ _ _ _
    · rw [kept.disagree, dsv]; exact (PerDoor_get_set _ _ _ _).trans (if_pos rfl)
    · rw [kept.raised, dsv]; exact (PerDoor_get_set _ _ _ _).trans (if_pos rfl)
    · rw [kept.disagree, dsv]; exact (PerDoor_get_set _ _ _ _).trans (if_neg other)
    · rw [kept.unsecured, dsv]; rfl
    · rw [kept.reports, dsv]; rfl
    · rw [kept.contacts, dsv]; rfl
  · rw [exec_doorStalenessExpiry, staleExpiry_of_stopped stopped]
  · rw [exec_doorDisagreeExpiry, disagreeExpiry_of_stopped stopped]

/-! The requests of the door port (R135 to R138) -/

section Requests

variable {p : Port} {r : Byte} {s : State} (h : Passes p r doorPort s)
include h

theorem exec_doorOpen_of_passes (door : Byte) : exec (.doorOpen p r door) s = .next (owned p 0x21
    (ownDoor door (fun n => placeClaim (.doorOpen n) (.drel n)) (closeTransfer p s))) :=
  congrArg Host.Outcome.next (request_of_passes h _ _)

theorem exec_doorClose_of_passes (door : Byte) : exec (.doorClose p r door) s = .next (owned p 0x22
    (ownDoor door (fun n => withdrawClaim (.doorOpen n) (.drel n)) (closeTransfer p s))) :=
  congrArg Host.Outcome.next (request_of_passes h _ _)

theorem exec_haltOn_of_passes : exec (.haltOn p r) s = .next (owned p 0x23
    (ownOperating haltData (placeClaims .doorHalt haltChannels) (closeTransfer p s))) :=
  congrArg Host.Outcome.next (request_of_passes h _ _)

theorem exec_haltOff_of_passes : exec (.haltOff p r) s = .next (owned p 0x24
    (ownOperating haltData (withdrawClaims .doorHalt haltChannels) (closeTransfer p s))) :=
  congrArg Host.Outcome.next (request_of_passes h _ _)

theorem exec_kneelOn_of_passes : exec (.kneelOn p r) s = .next (owned p 0x25
    (ownOperating kneelData (fun t => placeClaims .doorKneel (groupChannels t.store) t) (closeTransfer p s))) :=
  congrArg Host.Outcome.next (request_of_passes h _ _)

theorem exec_kneelOff_of_passes : exec (.kneelOff p r) s = .next (owned p 0x26
    (ownOperating kneelData (fun t => withdrawClaims .doorKneel (groupChannels t.store) t) (closeTransfer p s))) :=
  congrArg Host.Outcome.next (request_of_passes h _ _)

end Requests

section Own

variable {s : State} {data : State → List Byte} {act : State → State}

theorem ownOperating_of_elsewhere (h : s.mode.operating = false) : ownOperating data act s = (s, some ⟨.refusedState, []⟩) := by
  rw [ownOperating, h]; rfl

theorem ownOperating_of_operating (h : s.mode.operating = true) :
    ownOperating data act s = (complete (act s), some ⟨.ok, data (complete (act s))⟩) := by
  rw [ownOperating, h]; rfl

variable {door : Byte} {act : Door → State → State}

theorem ownDoor_of_elsewhere (h : s.mode.operating = false) : ownDoor door act s = (s, some ⟨.refusedState, []⟩) := by
  rw [ownDoor, h]; rfl

theorem ownDoor_of_unfitted (operating : s.mode.operating = true) (h : fittedDoor s.store door = none) :
    ownDoor door act s = (s, some ⟨.refusedArg, []⟩) := by
  rw [ownDoor, operating, h]; rfl

theorem ownDoor_of_fitted (operating : s.mode.operating = true) {n : Door} (h : fittedDoor s.store door = some n) :
    ownDoor door act s = (complete (act n s), some ⟨.ok, holderData (complete (act n s)) (.drel n)⟩) := by
  rw [ownDoor, operating, h]; rfl

end Own

theorem doorOfNo_doorNo (n : Door) : doorOfNo (doorNo n) = some n := by cases n <;> rfl

theorem doorNo_of_doorOfNo {i : Nat} {n : Door} (h : doorOfNo i = some n) : doorNo n = i := by
  rcases i with _ | _ | _ | _ | _ | _ <;> cases h <;> rfl

theorem fittedDoor_of_fitted {st : Store} {b : Byte} {n : Door} (named : doorNo n = b.toNat) (fitted : st.doorFitted n = true) :
    fittedDoor st b = some n := by
  rw [fittedDoor, ← named, doorOfNo_doorNo]
  exact if_pos fitted

theorem fittedDoor_of_none {st : Store} {b : Byte} (h : ∀ n, doorNo n = b.toNat → st.doorFitted n = false) :
    fittedDoor st b = none := by
  rw [fittedDoor]
  cases named : doorOfNo b.toNat with
  | none => rfl
  | some n => exact if_neg (by rw [h n (doorNo_of_doorOfNo named)]; exact Bool.false_ne_true)

/-- DOOR_OPEN's claim is taken, with ON (R136). -/
theorem cau_placeClaim_doorOpen {s : State} {n : Door} (operating : s.mode.operating = true)
    (fitted : s.store.doorFitted n = true) : (placeClaim (.doorOpen n) (.drel n) s).cau.get (.drel n) =
      placeList s.store (.doorOpen n) .on (s.cau.get (.drel n)) :=
  placeClaim_cau s _ _ ((accepts_iff _ _ _).2 ⟨operating, fitted, (eligible_doorOpen_iff _ _ _).2 rfl⟩)

theorem kneelHeld_iff (s : State) (k : Corner) :
    (kneelHeld s).get k = true ↔ s.store.inGroup k = true ∧ s.holder (.lvl k) = some .doorKneel := by
  rw [kneelHeld, PerCorner_get_of, Bool.and_eq_true, beq_iff_eq]

/-- Settles O43. -/
theorem doorRequestsTaken : Obligations.DoorRequestsTaken := by
  unfold Obligations.DoorRequestsTaken
  refine ⟨fun p r door s passes => ?requests, fun t => ?data⟩
  case requests =>
    intro c holder
    have opens := exec_doorOpen_of_passes passes door
    have closes := exec_doorClose_of_passes passes door
    have haltsOn := exec_haltOn_of_passes passes
    have haltsOff := exec_haltOff_of_passes passes
    have kneelsOn := exec_kneelOn_of_passes passes
    have kneelsOff := exec_kneelOff_of_passes passes
    refine ⟨fun elsewhere => ?refused, fun operating => ⟨fun absent => ?absent, fun n named fitted => ?door, ?_, ?_, ?_, ?_⟩⟩
    case refused =>
      rw [opens, closes, haltsOn, haltsOff, kneelsOn, kneelsOff, ownDoor_of_elsewhere (s := c) elsewhere,
        ownDoor_of_elsewhere (s := c) elsewhere, ownOperating_of_elsewhere (s := c) elsewhere,
        ownOperating_of_elsewhere (s := c) elsewhere, ownOperating_of_elsewhere (s := c) elsewhere,
        ownOperating_of_elsewhere (s := c) elsewhere]
      exact ⟨rfl, rfl, rfl, rfl, rfl, rfl⟩
    case absent =>
      have unnamed : fittedDoor c.store door = none := fittedDoor_of_none absent
      rw [opens, closes, ownDoor_of_unfitted (s := c) operating unnamed, ownDoor_of_unfitted (s := c) operating unnamed]
      exact ⟨rfl, rfl⟩
    case door =>
      have found : fittedDoor c.store door = some n := fittedDoor_of_fitted named fitted
      refine ⟨⟨_, rfl, ?_⟩, cau_placeClaim_doorOpen (s := c) operating fitted, ⟨_, rfl, ?_⟩⟩
      · rw [opens, ownDoor_of_fitted (s := c) operating found]; rfl
      · rw [closes, ownDoor_of_fitted (s := c) operating found]; rfl
    · refine ⟨_, rfl, ?_⟩
      rw [haltsOn, ownOperating_of_operating (s := c) operating]; rfl
    · refine ⟨_, rfl, ?_⟩
      rw [haltsOff, ownOperating_of_operating (s := c) operating]; rfl
    · refine ⟨_, rfl, ?_⟩
      rw [kneelsOn, ownOperating_of_operating (s := c) operating]; rfl
    · refine ⟨_, rfl, ?_⟩
      rw [kneelsOff, ownOperating_of_operating (s := c) operating]; rfl
  case data =>
    intro group
    refine ⟨rfl, cornerSet (kneelHeld t), rfl, fun i => ?_⟩
    rw [cornerSet_bit_iff]
    simp only [kneelHeld_iff]

end Sys2Proof.Machine
end

section

/-! PROOFS. The vehicle speed, at rest and the articulation rate (R60 to R67, R69). -/

namespace Sys2Proof.Machine

open Sys2Proof.Safety

/-! The speed from the valid samples (R61, R62) -/

theorem v_mruFormed (m : Mru) : (mruFormed m).v = speedOf m.v (validSpeeds m) := rfl

theorem speedKnown_mruFormed (m : Mru) : (mruFormed m).speedKnown = !(validSpeeds m).isEmpty := rfl

/-- The median of three stands between the other two. -/
theorem median3_between (x y z : Int) :
    ∃ lo hi, [x, y, z].Perm [lo, median3 x y z, hi] ∧ lo ≤ median3 x y z ∧ median3 x y z ≤ hi := by
  have swap_last : [x, y, z].Perm [x, z, y] := .cons x (.swap z y [])
  have swap_first : [x, y, z].Perm [y, x, z] := .swap y x [z]
  have rotated : [x, y, z].Perm [y, z, x] := swap_first.trans (.cons y (.swap z x []))
  by_cases mid_y : min x z ≤ y ∧ y ≤ max x z
  · have median : median3 x y z = y := by unfold median3; omega
    rw [median]
    rcases le_total x z with up | down
    · exact ⟨x, z, .refl _, by omega, by omega⟩
    · exact ⟨z, x, (rotated.trans (.swap z y [x])).trans (.cons z (.refl _)), by omega, by omega⟩
  · by_cases mid_x : min y z ≤ x ∧ x ≤ max y z
    · have median : median3 x y z = x := by unfold median3; omega
      rw [median]
      rcases le_total y z with up | down
      · exact ⟨y, z, swap_first, by omega, by omega⟩
      · exact ⟨z, y, swap_last.trans (.swap z x [y]), by omega, by omega⟩
    · have median : median3 x y z = z := by unfold median3; omega
      rw [median]
      rcases le_total x y with up | down
      · exact ⟨x, y, swap_last, by omega, by omega⟩
      · exact ⟨y, x, rotated, by omega, by omega⟩

theorem validSpeeds_length (m : Mru) : (validSpeeds m).length ≤ 3 := List.length_filterMap_le _ Axle.all

theorem speedEvents_of_same {m : Mru} (v : (mruFormed m).v = m.v) (known : (mruFormed m).speedKnown = m.speedKnown) :
    speedEvents m = [] := if_pos ⟨v, known⟩

theorem speedEvents_of_change {m : Mru} (h : ¬ ((mruFormed m).v = m.v ∧ (mruFormed m).speedKnown = m.speedKnown)) :
    speedEvents m = [.speed (mruFormed m).v (mruFormed m).speedKnown] := if_neg h

theorem slots_mruFormed (m : Mru) (x : Axle) : (mruFormed m).slots.get x = agedSlot m.latest (m.slots.get x) :=
  PerAxle_get_of _ x

/-- The age as R61 says it, the difference of the rounds modulo 65,536. -/
theorem sampleAge_eq {latest : Nat} {x : Sample} (h : x.round < 65536) :
    (sampleAge latest x : Int) = ((latest : Int) - x.round) % 65536 := by
  unfold sampleAge; omega

theorem agedSlot_of_old {latest : Nat} {x : Sample} (h : 2 < sampleAge latest x) : agedSlot latest (some x) = none := if_pos h

theorem agedSlot_of_fresh {latest : Nat} {x : Sample} (h : ¬ 2 < sampleAge latest x) : agedSlot latest (some x) = some x :=
  if_neg h

/-- The samples counted are those of nodes that are not LOST (R61). -/
theorem validSpeeds_eq (m : Mru) : validSpeeds m = [Axle.a, .b, .c].filterMap fun x =>
    if m.nodeState.get x = .lost then none else ((mruFormed m).slots.get x).map Sample.speed := by
  refine congrArg (List.filterMap · [Axle.a, .b, .c]) (funext fun x => ?_)
  change (if slotValid m (agedSlots m) x then ((agedSlots m).get x).map Sample.speed else none) =
    if m.nodeState.get x = .lost then none else ((agedSlots m).get x).map Sample.speed
  rw [slotValid]
  cases (agedSlots m).get x with
  | none => simp only [Option.isSome_none, Bool.false_and, Option.map_none, ite_self]
  | some y => simp only [Option.isSome_some, Bool.true_and, bne_iff_ne, ite_not]

/-! The speed formed, and SPEED_UNKNOWN (R62, R63) -/

/-- One slot of the item: its value and its age, or two free bytes and FFh (R63; Log 7). -/
theorem slotItem_spec (free latest place : Nat) (o : Option Sample) : match o with
    | some y => slotItem free latest place o = wordInt y.speed ++ [byte (min 254 ((latest + 65536 - y.round) % 65536))]
    | none => ∃ filler : List Byte, filler.length = 2 ∧ slotItem free latest place o = filler ++ [0xFF] := by
  cases o with
  | none => exact ⟨_, rfl, rfl⟩
  | some y => rfl

theorem formSpeed_of_lost {m : Mru} (known : m.speedKnown = true) (lost : (mruFormed m).speedKnown = false) (s : State) :
    formSpeed m s = detect .speedUnknown .mru none (speedItem s.freeCount m)
      (drawFree (announce (speedEvents m) { s with mru := mruFormed m })) := by
  rw [formSpeed, known, lost]; rfl

theorem formSpeed_of_kept {m : Mru} (h : m.speedKnown = false ∨ (mruFormed m).speedKnown = true) (s : State) :
    formSpeed m s = announce (speedEvents m) { s with mru := mruFormed m } := by
  rcases h with unknown | known
  · rw [formSpeed, unknown]; rfl
  · rw [formSpeed, known, Bool.not_true, Bool.and_false]; rfl

/-! A recompute (R64) -/

/-- A recompute that leaves at_rest as it is. -/
theorem mruRecompute_of_steady {m : Mru} (h : atRestAfter (mruFormed m) = m.atRest) (s : State) : mruRecompute m s =
    { formSpeed m s with mru := { mruFormed m with settle := settleAfter s.store (mruFormed m) } } := by
  rw [mruRecompute_eq, h]
  exact setAtRest_of_same rfl

/-! A joint sample (R66, R67) -/

section Joint

variable {st : Store} {th : Int} {m : Mru}

theorem theta_mruSampled : (mruSampled st th m).theta = clamp (-600) 600 th := rfl

/-- A sample on a full history: the rate is formed against the oldest value, which leaves (R67). -/
theorem mruSampled_of_full {oldest : Int} {later : List Int} (history : m.history = oldest :: later)
    (full : m.history.length = st.histDepth) : mruSampled st th m = { m with
      theta := clamp (-600) 600 th
      rateValid := true
      rate := clamp (-2000) 2000 ((clamp (-600) 600 th - oldest) * 10)
      history := later ++ [clamp (-600) 600 th] } := by
  have enough : st.histDepth ≤ m.history.length := full.ge
  have kept : lastN st.histDepth (m.history ++ [clamp (-600) 600 th]) = later ++ [clamp (-600) 600 th] := by
    rw [lastN, List.length_append, full, List.length_singleton, Nat.add_sub_cancel_left, history]; rfl
  simp only [mruSampled, decide_eq_true enough, kept]
  rw [history] at enough ⊢
  simp only [if_pos enough]

theorem mruSampled_of_short (short : m.history.length < st.histDepth) : mruSampled st th m = { m with
      theta := clamp (-600) 600 th
      rateValid := false
      history := m.history ++ [clamp (-600) 600 th] } := by
  have few : ¬ st.histDepth ≤ m.history.length := not_le.2 short
  have kept : lastN st.histDepth (m.history ++ [clamp (-600) 600 th]) = m.history ++ [clamp (-600) 600 th] := by
    rw [lastN, List.length_append, List.length_singleton, Nat.sub_eq_zero_of_le short, List.drop_zero]
  simp only [mruSampled, decide_eq_false few, kept, if_neg few]
  cases m.history <;> rfl

end Joint

/-- Settles O46. -/
theorem speedAndRateFormed : Obligations.SpeedAndRateFormed := by
  unfold Obligations.SpeedAndRateFormed
  refine ⟨fun m => ?speed, fun st th m deep => ?rate, fun th s => rfl, fun x round s => ⟨fun v => rfl, rfl, fun st => rfl⟩,
    fun m x => ?aged, validSpeeds_eq, fun m s => ?recompute⟩
  case speed =>
    intro n
    have v : n.v = speedOf m.v (validSpeeds m) := v_mruFormed m
    have known : n.speedKnown = !(validSpeeds m).isEmpty := speedKnown_mruFormed m
    rw [v, known]
    refine ⟨fun h => ?_, fun x h => ?_, fun x y h => ?_, fun x y z h => ?_, validSpeeds_length m, fun same both => ?_, fun h => ?_⟩
    · rw [h]; exact ⟨rfl, rfl⟩
    · rw [h]; exact ⟨rfl, rfl⟩
    · rw [h]; exact ⟨rfl, rfl⟩
    · rw [h]; exact ⟨median3_between x y z, rfl⟩
    · exact speedEvents_of_same same both
    · exact speedEvents_of_change h
  case rate =>
    intro n
    refine ⟨theta_mruSampled, fun oldest later history full => ?_, fun short => ?_⟩
    · rw [show n = _ from mruSampled_of_full history full]; exact ⟨rfl, rfl, rfl⟩
    · rw [show n = _ from mruSampled_of_short short]; exact ⟨rfl, rfl, rfl⟩
  case aged =>
    rw [slots_mruFormed]
    refine ⟨fun empty => by rw [empty]; rfl, fun sample held low => ?_⟩
    intro age
    have age_eq : (sampleAge m.latest sample : Int) = age := sampleAge_eq low
    rw [held]
    exact ⟨fun old => agedSlot_of_old (by omega), fun fresh => agedSlot_of_fresh (by omega)⟩
  case recompute =>
    intro n u t slow slot
    have slot_spec : ∀ x place, slot x (slotItem s.freeCount m.latest place (m.slots.get x)) := fun x place =>
      slotItem_spec s.freeCount m.latest place (m.slots.get x)
    refine ⟨fun known lost => ⟨_, _, _, slot_spec .a 0, slot_spec .b 1, slot_spec .c 2, formSpeed_of_lost known lost s⟩,
      fun kept => formSpeed_of_kept kept s, fun low moving => ?_, fun low rest => ?_, fun fast moving => ?_, fun fast rest => ?_⟩
    · rw [show t = _ from mruRecompute_of_steady (atRestAfter_of_slow low) s, settleAfter_slow _ low moving]; rfl
    · rw [show t = _ from mruRecompute_of_steady (atRestAfter_of_slow low) s, settleAfter_of_atRest (m := mruFormed m) _ rest]
    · have steady : atRestAfter (mruFormed m) = m.atRest := (atRestAfter_of_moving fast).trans moving.symm
      rw [show t = _ from mruRecompute_of_steady steady s, settleAfter_of_moving _ fast]
    · rw [show t = _ from mruRecompute_of_departed s rest fast]
      exact ⟨rfl, rfl, fun d => PerDoor_get_of _ d, rfl⟩

end Sys2Proof.Machine
end

section

/-! PROOFS. The steer law, the fade and the rate limiter (R96 to R100). -/

namespace Sys2Proof.Machine

open Sys2Proof.Safety

/-! The target before the fade (R97) -/

theorem steerRaw_of_centre {st : Store} {j : Sju} (h : j.steer = .centre) : steerRaw st j = 0 := by
  rw [steerRaw, h]

theorem steerRaw_of_active {st : Store} {j : Sju} (h : j.steer = .active) :
    steerRaw st j = -((st.gTheta * j.theta + st.gF * j.angle).tdiv 1024) := by
  rw [steerRaw, h]; rfl

theorem abs_mul_le {a b m n : Int} (ha : |a| ≤ m) (hb : |b| ≤ n) : |a * b| ≤ m * n := by
  rw [abs_mul]
  exact mul_le_mul ha hb (abs_nonneg b) ((abs_nonneg a).trans ha)

theorem abs_tdiv_le {x : Int} {n k : Nat} (h : |x| ≤ n * k) : |x.tdiv k| ≤ n := by
  rw [Int.abs_eq_natAbs] at h ⊢
  have bound : x.natAbs ≤ n * k := by exact_mod_cast h
  rw [Int.natAbs_tdiv, Int.natAbs_natCast]
  exact_mod_cast Nat.div_le_of_le_mul (bound.trans_eq (Nat.mul_comm n k))

/-- No intermediate value of the law leaves the range that R97 gives. -/
theorem steerRaw_bounds {st : Store} {j : Sju} (theta : |j.theta| ≤ 600) (angle : |j.angle| ≤ 500)
    (gTheta : |st.gTheta| ≤ 2048) (gF : |st.gF| ≤ 2048) :
    |st.gTheta * j.theta + st.gF * j.angle| ≤ 2252800 ∧ |steerRaw st j| ≤ 2200 := by
  have sum : |st.gTheta * j.theta + st.gF * j.angle| ≤ 2048 * 600 + 2048 * 500 :=
    (abs_add_le _ _).trans (add_le_add (abs_mul_le gTheta theta) (abs_mul_le gF angle))
  refine ⟨sum, ?_⟩
  cases mode : j.steer with
  | centre => rw [steerRaw_of_centre mode]; decide
  | active =>
    rw [steerRaw_of_active mode, abs_neg]
    exact abs_tdiv_le (n := 2200) (k := 1024) sum

/-! The fade (R98) -/

section Fade

variable {st : Store} {j : Sju}

theorem fadeFactor_of_unknown (h : j.speedKnown = false) : fadeFactor st j = 0 := by
  rw [fadeFactor, h]; rfl

theorem fadeFactor_of_known (h : j.speedKnown = true) : fadeFactor st j =
    if j.v ≤ st.v1 then 1024 else if st.v2 ≤ j.v then 0 else 1024 * (st.v2 - j.v) / (st.v2 - st.v1) := by
  rw [fadeFactor, h]; rfl

theorem fadeFactor_of_between (known : j.speedKnown = true) (above : st.v1 < j.v) (below : j.v ≤ st.v2 - 1) :
    fadeFactor st j = 1024 * (st.v2 - j.v) / (st.v2 - st.v1) := by
  rw [fadeFactor_of_known known, if_neg (by omega), if_neg (by omega)]

/-- Between the two speeds the factor lies within 0 and 1023, and falls as the speed rises. -/
theorem fadeFactor_bounds (known : j.speedKnown = true) (above : st.v1 < j.v) (below : j.v ≤ st.v2 - 1) :
    0 ≤ fadeFactor st j ∧ fadeFactor st j ≤ 1023 ∧ (fadeFactor st j = 0 → 1024 < st.v2 - st.v1) ∧
      ∀ v', j.v ≤ v' → v' ≤ st.v2 - 1 → fadeFactor st { j with v := v' } ≤ fadeFactor st j := by
  have span : 0 < st.v2 - st.v1 := by omega
  rw [fadeFactor_of_between known above below]
  refine ⟨Int.ediv_nonneg (by omega) span.le, ?_, fun zero => ?_, fun v' faster below' => ?_⟩
  · exact Int.le_of_lt_add_one (Int.ediv_lt_of_lt_mul span (by omega))
  · by_contra narrow
    have one : 1 ≤ 1024 * (st.v2 - j.v) / (st.v2 - st.v1) := Int.le_ediv_of_mul_le span (by omega)
    omega
  · rw [fadeFactor_of_between (j := { j with v := v' }) known (lt_of_lt_of_le above faster) below']
    exact Int.ediv_le_ediv span (by change 1024 * (st.v2 - v') ≤ _; omega)

end Fade

/-! The limiter (R100) -/

/-- A step of the limiter moves from a last sent value within the limit by at most R, towards the setpoint. -/
theorem limitStep_bounds {st : Store} {j : Sju} (rate : 0 ≤ st.rLim) (sent : |j.lastSent| ≤ st.deltaMax) :
    let next := limitStep st j
    |next| ≤ st.deltaMax ∧ |next - j.lastSent| ≤ st.rLim ∧
    (|j.effective - j.lastSent| ≤ st.rLim → next = clamp (-st.deltaMax) st.deltaMax j.effective) ∧
    (st.rLim < j.effective - j.lastSent → next = min st.deltaMax (j.lastSent + st.rLim)) ∧
    (st.rLim < j.lastSent - j.effective → next = max (-st.deltaMax) (j.lastSent - st.rLim)) := by
  obtain ⟨low, high⟩ := abs_le.1 sent
  simp only [limitStep, clamp, abs_le]
  generalize st.deltaMax = limit at *
  generalize st.rLim = step at *
  refine ⟨?_, ?_, fun near => ?_, fun up => ?_, fun down => ?_⟩ <;> omega

/-! What CAU is handed, and what is polled (R19, R99, R100) -/

theorem steerSetpoint_of_other (j : Sju) {src : Source} (lane : src ≠ .lane) (safe : src ≠ .safe) (centre : src ≠ .centre) :
    steerSetpoint j src = none := by
  cases src with
  | lane => exact absurd rfl lane
  | safe => exact absurd rfl safe
  | centre => exact absurd rfl centre
  | _ => rfl

theorem pollNext_of_cons {s : State} {n : Node} {rest : List Node} (h : s.flc.left = n :: rest) :
    pollNext s = { s with sju := sjuPolled s n, flc := { s.flc with left := rest, txn := some (pollTxn s n) } } := by
  rw [pollNext, h]

/-- Settles O47. -/
theorem steerLawFormed : Obligations.SteerLawFormed := by
  unfold Obligations.SteerLawFormed
  refine ⟨fun st j => ⟨steerRaw_of_centre, steerRaw_of_active, steerRaw_bounds⟩, fun st j rising => ?fade, fun st j => rfl,
    fun st j rate sent => limitStep_bounds rate sent, fun j s => ⟨rfl, rfl, rfl, rfl, fun src lane safe centre =>
      steerSetpoint_of_other _ lane safe centre, rfl, rfl, rfl⟩,
    fun s => ⟨fun a => rfl, fun m => rfl, fun v known => ⟨rfl, rfl⟩, fun th rate valid => rfl, fun holder v changed => rfl⟩,
    fun s rest next => ?polled, fun s rest start idle asks => ?shutdown⟩
  case fade =>
    intro f
    refine ⟨fadeFactor_of_unknown, fun known slow => ?_, fun known fast => ?_, fun known above below =>
      ⟨fadeFactor_of_between known above below, fadeFactor_bounds known above below⟩⟩
    · exact (fadeFactor_of_known known).trans (if_pos slow)
    · exact (fadeFactor_of_known known).trans (by rw [if_neg (by omega), if_pos fast])
  case polled =>
    intro echo limited
    have echo_iff : pollsEcho s.flc .str = true ↔ echo := pollsEcho_iff s.flc .str
    rw [pollNext_of_cons next]
    refine ⟨fun set => ⟨sjuPolled_of_set (mt echo_iff.1 set), ?_⟩, fun echoed => sjuPolled_of_echo (echo_iff.2 echoed)⟩
    exact congrArg some (pollTxn_of_set (mt echo_iff.1 set))
  case shutdown =>
    rw [advance_of_shutdown idle asks]
    exact ⟨rfl, rfl⟩

end Sys2Proof.Machine
end

section

/-! PROOFS. The joint law, the centring conditions and the excursion (R102 to R106, R108). -/

namespace Sys2Proof.Machine

open Sys2Proof.Safety

/-! What leaves SJU alone -/

theorem sju_placeClaim (src : Source) (c : Channel) (s : State) : (placeClaim src c s).sju = s.sju := by
  rw [placeClaim_frame]

theorem sju_placeClaims (src : Source) (cs : List Channel) (s : State) : (placeClaims src cs s).sju = s.sju :=
  placeClaims_induction (fun t => t.sju = s.sju) src (fun c t kept => (sju_placeClaim src c t).trans kept) cs s rfl

theorem sju_withdrawClaims (src : Source) (cs : List Channel) (s : State) : (withdrawClaims src cs s).sju = s.sju :=
  withdrawClaims_induction (fun t => t.sju = s.sju) src (fun _ _ kept => kept) cs s rfl

theorem sju_detect (k : FaultKind) (src : FaultSource) (ch : Option Channel) (item : List Byte) (s : State) :
    (detect k src ch item s).sju = s.sju := by
  rw [detect_frame]

theorem sju_raiseSaturated (was : PerAxle Bool) (x : Axle) (s : State) : (raiseSaturated was x s).sju = s.sju := by
  unfold raiseSaturated
  split
  · exact sju_detect _ _ _ _ _
  · rfl

theorem sju_bauRecompute (s : State) : (bauRecompute s).sju = s.sju := by
  change (judgeSaturation s).sju = s.sju
  rw [judgeSaturation, sju_raiseSaturated, sju_raiseSaturated, sju_raiseSaturated]

theorem sju_bauAtRest (b : Bool) (s : State) : (bauAtRest b s).sju = s.sju := by
  unfold bauAtRest
  split
  · rfl
  · exact sju_bauRecompute _

theorem sju_judgeEntry (e : Entry) (s : State) : (judgeEntry e s).sju = s.sju := by
  unfold judgeEntry
  split
  · rfl
  · split
    · exact sju_placeClaims _ _ _
    · exact sju_withdrawClaims _ _ _

theorem sju_judgeEntries (es : List Entry) (s : State) : (judgeEntries es s).sju = s.sju :=
  judgeEntries_induction (fun t => t.sju = s.sju) (fun e t kept => (sju_judgeEntry e t).trans kept) es s rfl

theorem sju_ictAtRest (b : Bool) (s : State) : (ictAtRest b s).sju = s.sju := sju_judgeEntries _ _

theorem sju_mcAtRest (b : Bool) (s : State) : (mcAtRest b s).sju = s.sju := by
  unfold mcAtRest
  dsimp only
  split
  · split
    · exact sju_withdrawClaims _ _ _
    · exact sju_placeClaims _ _ _
  · rfl

/-! The joint law (R105, R106) -/

/-- The joint current by the table of R105. -/
def jointLaw (st : Store) (atRest valid : Bool) (th rate : Int) : Int :=
  if atRest = true then st.iBase
  else if valid = false then st.iBase
  else if st.thetaWarn ≤ |th| ∧ (0 < th ∧ 0 < rate ∨ th < 0 ∧ rate < 0) then st.iMax
  else clamp st.iBase st.iMax (st.iBase + st.gD * |rate| / 64)

theorem sameSign_iff (x y : Int) : sameSign x y = true ↔ 0 < x ∧ 0 < y ∨ x < 0 ∧ y < 0 := by
  simp only [sameSign, Bool.or_eq_true, Bool.and_eq_true, decide_eq_true_eq]

/-- The first matching row gives the current. -/
theorem current_sjuDamped (st : Store) (j : Sju) :
    (sjuDamped st j).current = jointLaw st j.atRest j.rateValid j.theta j.rate := by
  change jointCurrent st j (jointRow st j) = _
  unfold jointRow jointLaw
  cases j.atRest with
  | true => rfl
  | false =>
    cases j.rateValid with
    | false => rfl
    | true =>
      have row : (decide (st.thetaWarn ≤ absVal j.theta) && sameSign j.theta j.rate) = true ↔
          st.thetaWarn ≤ |j.theta| ∧ (0 < j.theta ∧ 0 < j.rate ∨ j.theta < 0 ∧ j.rate < 0) := by
        rw [Bool.and_eq_true, decide_eq_true_eq, sameSign_iff]; rfl
      by_cases diverges : st.thetaWarn ≤ |j.theta| ∧ (0 < j.theta ∧ 0 < j.rate ∨ j.theta < 0 ∧ j.rate < 0)
      · simp only [Bool.false_eq_true, if_false, Bool.not_true, Bool.true_eq_false, row.2 diverges, if_true, if_pos diverges]
        rfl
      · simp only [Bool.false_eq_true, if_false, Bool.not_true, Bool.true_eq_false, mt row.1 diverges, if_neg diverges]
        rfl

theorem runJoint_of_entered {s : State} (h : s.sju.entered = true) :
    runJoint s = placeClaim .joint .jnt { s with sju := sjuDamped s.store s.sju } := if_pos h

theorem runJoint_of_clear {s : State} (h : s.sju.entered = false) :
    runJoint s = { s with sju := sjuDamped s.store s.sju } := by
  rw [runJoint, h]; rfl

theorem sju_runJoint (s : State) : (runJoint s).sju = sjuDamped s.store s.sju := by
  unfold runJoint
  split
  · exact sju_placeClaim _ _ _
  · rfl

/-! Centring (R102, R103) -/

theorem Centring.stands_iff (c : Centring) :
    c.stands = true ↔ c.mode = true ∨ c.angle = true ∨ c.node = true ∨ c.follow = true := by
  rw [Centring.stands, Bool.or_eq_true, Bool.or_eq_true, Bool.or_eq_true, or_assoc, or_assoc]

theorem centre_of_standing {s : State} (h : s.sju.centring.stands = true) : centre s = placeClaim .centre .str s := if_pos h

theorem centre_of_clear {s : State} (h : ¬ s.sju.centring.stands = true) : centre s = withdrawClaim .centre .str s := if_neg h

theorem setCentring_self (s : State) : setCentring s.sju.centring s = s := if_pos rfl

theorem setCentring_of_change {c : Centring} {s : State} (h : c ≠ s.sju.centring) :
    setCentring c s = centre { s with sju := { s.sju with centring := c } } := if_neg h.symm

theorem sju_centre (s : State) : (centre s).sju = s.sju := by
  unfold centre
  split
  · exact sju_placeClaim _ _ _
  · rfl

theorem sju_setCentring (c : Centring) (s : State) : (setCentring c s).sju = { s.sju with centring := c } := by
  by_cases change : c = s.sju.centring
  · rw [change, setCentring_self]
  · rw [setCentring_of_change change, sju_centre]

/-! Excursions (R104, R108) -/

section Excursion

variable {s : State}

theorem judgeExcursion_of_begun (far : s.store.thetaMax < |s.sju.theta|) (clear : s.sju.centring.angle = false) :
    judgeExcursion s = setCentring { s.sju.centring with angle := true }
      (detect .articLimit .sju (some .str) (articItem s.store s.sju) s) := by
  rw [judgeExcursion, absVal_eq, if_pos far, clear]; rfl

theorem judgeExcursion_of_standing (far : s.store.thetaMax < |s.sju.theta|) (stands : s.sju.centring.angle = true) :
    judgeExcursion s = s := by
  rw [judgeExcursion, absVal_eq, if_pos far, stands]; rfl

theorem judgeExcursion_of_within (near : |s.sju.theta| ≤ s.store.thetaMax) :
    judgeExcursion s = setCentring { s.sju.centring with angle := false } s := by
  rw [judgeExcursion, absVal_eq, if_neg (not_lt.2 near)]

end Excursion

/-- The judgement of an excursion moves no copy but the centring conditions. -/
theorem sju_judgeExcursion (s : State) : ∃ c, (judgeExcursion s).sju = { s.sju with centring := c } := by
  rcases lt_or_ge s.store.thetaMax |s.sju.theta| with far | near
  · cases angle : s.sju.centring.angle with
    | true => exact ⟨s.sju.centring, by rw [judgeExcursion_of_standing far angle]⟩
    | false => exact ⟨_, by rw [judgeExcursion_of_begun far angle, sju_setCentring, sju_detect]⟩
  · exact ⟨_, by rw [judgeExcursion_of_within near, sju_setCentring]⟩

/-! The announcements (R105) -/

/-- SJU as the angle has been announced, but for the centring conditions. -/
def sjuAngled (st : Store) (th rate : Int) (valid : Bool) (j : Sju) : Sju :=
  sjuDamped st (sjuSteered st { j with theta := th, rate := rate, rateValid := valid })

theorem sju_handle_theta (th rate : Int) (valid sample : Bool) (s : State) :
    ∃ c, (handle (.theta th rate valid sample) s).sju = { sjuAngled s.store th rate valid s.sju with centring := c } := by
  have laws := sju_runJoint (runSteer { s.sju with theta := th, rate := rate, rateValid := valid } s)
  cases sample with
  | false => exact ⟨_, laws⟩
  | true =>
    obtain ⟨c, judged⟩ := sju_judgeExcursion (runJoint (runSteer { s.sju with theta := th, rate := rate, rateValid := valid } s))
    exact ⟨c, judged.trans (by rw [laws]; rfl)⟩

theorem sju_handle_atRest (b : Bool) (s : State) :
    (handle (.atRest b) s).sju = sjuDamped s.store { s.sju with atRest := b } := by
  have sju : (ictAtRest b (bauAtRest b s)).sju = s.sju := (sju_ictAtRest _ _).trans (sju_bauAtRest b s)
  have store : (ictAtRest b (bauAtRest b s)).store = s.store :=
    ((bauAtRest_mild s b).trans (ictAtRest_mild _ b)).same.store
  change (mcAtRest b (lkuAtRest b (sjuAtRest b (ictAtRest b (bauAtRest b s))))).sju = _
  rw [sju_mcAtRest]
  refine (sju_runJoint _).trans ?_
  change sjuDamped (ictAtRest b (bauAtRest b s)).store { (ictAtRest b (bauAtRest b s)).sju with atRest := b } = _
  rw [sju, store]

/-- Settles O48. -/
theorem jointLawRuns : Obligations.JointLawRuns := by
  unfold Obligations.JointLawRuns
  refine ⟨fun s => ?law, fun s => ⟨runJoint_of_entered, runJoint_of_clear, rfl, fun b => rfl, rfl⟩,
    fun th rate valid s => ⟨rfl, rfl⟩, fun s => ?centring⟩
  case law =>
    intro law
    refine ⟨fun th rate valid sample => ?_, fun b => ?_⟩
    · intro t
      obtain ⟨c, taken⟩ := sju_handle_theta th rate valid sample s
      rw [show t.sju = _ from taken]
      exact ⟨rfl, rfl, rfl, current_sjuDamped _ _⟩
    · intro t
      rw [show t.sju = _ from sju_handle_atRest b s]
      exact ⟨rfl, current_sjuDamped _ _⟩
  case centring =>
    intro c stands
    have stands_iff : c.stands = true ↔ stands c := c.stands_iff
    exact ⟨fun standing => centre_of_standing (stands_iff.2 standing), fun clear => centre_of_clear (mt stands_iff.1 clear),
      setCentring_self s, fun c' change => setCentring_of_change change, rfl, fun st => rfl, fun b => rfl,
      judgeExcursion_of_begun, judgeExcursion_of_standing, judgeExcursion_of_within⟩

end Sys2Proof.Machine
end

section

/-! PROOFS. BAU's arithmetic: apportionment, pressures and the setpoint of each source (R79, R80, R83, R85). -/

namespace Sys2Proof.Machine

open Sys2Proof.Safety

/-! The lost axles (R78, R79) -/

theorem forall_axle {p : Axle → Prop} : (∀ x, p x) ↔ p .a ∧ p .b ∧ p .c :=
  ⟨fun all => ⟨all .a, all .b, all .c⟩, fun ⟨a, b, c⟩ x => by cases x <;> assumption⟩

theorem noneLost_iff (b : Bau) : b.noneLost = true ↔ ∀ x, b.lost.get x = false := by
  rw [Bau.noneLost, Bool.and_eq_true, Bool.and_eq_true, Bool.not_eq_true', Bool.not_eq_true', Bool.not_eq_true', and_assoc,
    forall_axle]; rfl

theorem allLost_iff (b : Bau) : b.allLost = true ↔ ∀ x, b.lost.get x = true := by
  rw [Bau.allLost, Bool.and_eq_true, Bool.and_eq_true, and_assoc, forall_axle]; rfl

theorem not_allLost_iff (b : Bau) : b.allLost = false ↔ ∃ x, b.lost.get x = false := by
  rw [Bool.eq_false_iff, ne_eq, allLost_iff, not_forall]
  simp only [Bool.not_eq_true]

/-! The apportionment loads (R79) -/

section Apportioned

variable {b : Bau} {x : Axle}

theorem apportioned_of_noneLost (h : ∀ x, b.lost.get x = false) (x : Axle) : b.apportioned x = b.load.get x := by
  rw [Bau.apportioned, (noneLost_iff b).2 h]; rfl

theorem apportioned_of_lost (h : b.lost.get x = true) : b.apportioned x = b.load.get x := by
  rw [Bau.apportioned, h, Bool.or_true]; rfl

theorem apportioned_of_live (some_lost : ∃ y, b.lost.get y = true) (live : b.lost.get x = false) :
    b.apportioned x = b.load.get x * b.mAll / b.mLive := by
  have lost : b.noneLost = false := Bool.eq_false_iff.2 fun none => by
    obtain ⟨y, gone⟩ := some_lost
    rw [(noneLost_iff b).1 none y] at gone; cases gone
  rw [Bau.apportioned, lost, live]; rfl

theorem liveLoad_of_lost (h : b.lost.get x = true) : b.liveLoad x = 0 := if_pos h

theorem liveLoad_of_live (h : b.lost.get x = false) : b.liveLoad x = b.load.get x := by
  rw [Bau.liveLoad, h]; rfl

variable (positive : ∀ x, 0 < b.load.get x)
include positive

theorem liveLoad_nonneg (x : Axle) : 0 ≤ b.liveLoad x := by
  unfold Bau.liveLoad
  split
  · exact le_refl 0
  · exact (positive x).le

theorem load_le_mAll (x : Axle) : b.load.get x ≤ b.mAll := by
  obtain ⟨a, b', c⟩ := forall_axle.1 positive
  change 0 < b.load.a at a
  change 0 < b.load.b at b'
  change 0 < b.load.c at c
  unfold Bau.mAll
  cases x with
  | a => change b.load.a ≤ _; omega
  | b => change b.load.b ≤ _; omega
  | c => change b.load.c ≤ _; omega

theorem load_le_mLive (live : b.lost.get x = false) : b.load.get x ≤ b.mLive := by
  obtain ⟨a, b', c⟩ := forall_axle.1 (liveLoad_nonneg positive)
  rw [← liveLoad_of_live live]
  unfold Bau.mLive
  cases x with
  | a => omega
  | b => omega
  | c => omega

theorem apportioned_le_mAll (some_lost : ∃ y, b.lost.get y = true) (x : Axle) : b.apportioned x ≤ b.mAll := by
  cases lost : b.lost.get x with
  | true => rw [apportioned_of_lost lost]; exact load_le_mAll positive x
  | false =>
    rw [apportioned_of_live some_lost lost]
    have live := load_le_mLive positive lost
    have total : 0 ≤ b.mAll := (positive x).le.trans (load_le_mAll positive x)
    refine Int.ediv_le_of_le_mul ((positive x).trans_le live) ?_
    rw [mul_comm b.mAll]
    exact mul_le_mul_of_nonneg_right live total

/-- The only live axle takes the whole load (R79). -/
theorem apportioned_of_alone (live : b.lost.get x = false) (others : ∀ y, y ≠ x → b.lost.get y = true) :
    b.apportioned x = b.mAll := by
  have some_lost : ∃ y, b.lost.get y = true := by
    cases x with
    | a => exact ⟨.b, others .b nofun⟩
    | _ => exact ⟨.a, others .a nofun⟩
  have alone : b.mLive = b.load.get x := by
    have gone : ∀ y, y ≠ x → b.liveLoad y = 0 := fun y other => liveLoad_of_lost (others y other)
    unfold Bau.mLive
    cases x with
    | a => rw [liveLoad_of_live live, gone .b nofun, gone .c nofun, add_zero, add_zero]
    | b => rw [liveLoad_of_live live, gone .a nofun, gone .c nofun, zero_add, add_zero]
    | c => rw [liveLoad_of_live live, gone .a nofun, gone .b nofun, zero_add, zero_add]
  rw [apportioned_of_live some_lost live, alone]
  exact Int.mul_ediv_cancel_left _ (positive x).ne'

end Apportioned

/-! The pressure of a demand (R80) -/

section Pressure

variable {st : Store} {b : Bau} {x : Axle} {d : Int}

theorem noPressure_iff (b : Bau) (d : Int) : noPressure b d = true ↔ d = 0 ∨ ∀ y, b.lost.get y = true := by
  rw [noPressure, Bool.or_eq_true, beq_iff_eq, allLost_iff]

theorem not_noPressure_iff (b : Bau) (d : Int) : noPressure b d = false ↔ d ≠ 0 ∧ ∃ y, b.lost.get y = false := by
  rw [noPressure, Bool.or_eq_false_iff, beq_eq_false_iff_ne, not_allLost_iff]

theorem pressure_of_none (h : d = 0 ∨ ∀ y, b.lost.get y = true) : pressure st b x d = 0 := if_pos ((noPressure_iff b d).2 h)

theorem pressure_of_some (h : d ≠ 0 ∧ ∃ y, b.lost.get y = false) :
    pressure st b x d = min 850 (d * b.apportioned x * st.kA x / 1048576 + st.tA x) := by
  rw [pressure, (not_noPressure_iff b d).2 h]; rfl

/-! The setpoint of each source (R83, R85) -/

theorem brakeSetpoint_safe_moving (h : b.atRest = false) :
    brakeSetpoint st b x .safe = some (floored st b x (pressure st b x st.dSafe)) := by
  simp only [brakeSetpoint, h, Bool.false_eq_true, if_false]

theorem brakeSetpoint_safe_atRest (h : b.atRest = true) : brakeSetpoint st b x .safe = some st.haltP := by
  simp only [brakeSetpoint, h, if_true]

theorem brakeSetpoint_halt {k : Fin 12} (h : st.entryKind k = .halt) :
    brakeSetpoint st b x (.entry (.prog k)) = some (haltPressure st b x) := by
  simp only [brakeSetpoint, h]

theorem brakeSetpoint_given {k : Fin 12} (h : st.entryKind k ≠ .halt) : brakeSetpoint st b x (.entry (.prog k)) =
    if x = .a then none else (givenValue b x k).map (floored st b x) := by
  cases kind : st.entryKind k with
  | halt => exact absurd kind h
  | _ => simp only [brakeSetpoint, kind]

end Pressure

/-! The demands in use (R81) -/

theorem mem_demandsInUse (st : Store) (b : Bau) (d : Int) : d ∈ demandsInUse st b ↔
    d = b.demand ∧ b.mode.operating = true ∨ d = max b.demand st.dEmerg ∧ b.mode.operating = true ∧ b.emerg = true ∨
      d = st.dSafe ∧ b.mode = .safeStop ∧ b.atRest = false := by
  have mem_single : ∀ (p : Prop) [Decidable p] (v : Int), d ∈ (if p then [v] else []) ↔ d = v ∧ p := fun p _ v => by
    by_cases holds : p
    · rw [if_pos holds, List.mem_singleton, and_iff_left holds]
    · rw [if_neg holds, iff_false_right (fun both => holds both.2)]; exact List.not_mem_nil
  rw [demandsInUse, List.mem_append, List.mem_append, mem_single, mem_single, mem_single, Bool.and_eq_true, Bool.and_eq_true,
    beq_iff_eq, Bool.not_eq_true', or_assoc]; rfl

theorem mem_saturating (st : Store) (b : Bau) (x : Axle) (d : Int) : d ∈ saturating st b x ↔
    (d = b.demand ∧ b.mode.operating = true ∨ d = max b.demand st.dEmerg ∧ b.mode.operating = true ∧ b.emerg = true ∨
      d = st.dSafe ∧ b.mode = .safeStop ∧ b.atRest = false) ∧
    d ≠ 0 ∧ (∃ y, b.lost.get y = false) ∧ 850 < d * b.apportioned x * st.kA x / 1048576 + st.tA x := by
  rw [saturating, List.mem_filter, mem_demandsInUse, Bool.and_eq_true, Bool.not_eq_true', not_noPressure_iff, decide_eq_true_eq,
    and_assoc]; rfl

/-- The largest of demands that are not negative. -/
theorem foldl_max_eq {l : List Int} {a d : Int} (start : a ≤ d) (bound : ∀ e ∈ l, e ≤ d) (reached : d = a ∨ d ∈ l) :
    l.foldl max a = d := by
  induction l generalizing a with
  | nil => exact (reached.resolve_right List.not_mem_nil).symm
  | cons e l ih =>
    have first : e ≤ d := bound e List.mem_cons_self
    refine ih (max_le start first) (fun e' later => bound e' (List.mem_cons_of_mem e later)) ?_
    rcases reached with rfl | member
    · exact .inl (max_eq_left first).symm
    · rcases List.mem_cons.1 member with rfl | later
      · exact .inl (max_eq_right start).symm
      · exact .inr later

theorem largest_of_max {l : List Int} {d : Int} (nonneg : 0 ≤ d) (member : d ∈ l) (bound : ∀ e ∈ l, e ≤ d) : largest l = d :=
  foldl_max_eq nonneg bound (.inr member)

end Sys2Proof.Machine
end

section

/-! PROOFS. BAU's steps: loads, gates, the floor flag, saturation and the recompute (R74, R76 to R78, R81, R85, R86, R88). -/

namespace Sys2Proof.Machine

open Sys2Proof.Safety

/-! The gate and the load estimate (R74, R76) -/

theorem gateOpen_iff (st : Store) (l : Lku) (x : Axle) : gateOpen st l x = true ↔
    (l.corners.get (axleLeft x)).valve = .hold ∧ (l.corners.get (axleRight x)).valve = .hold ∧
      (l.kneel = .normal ∨ (st.inGroup (axleLeft x) = false ∧ st.inGroup (axleRight x) = false)) := by
  rw [gateOpen, Bool.and_eq_true, Bool.and_eq_true, Bool.or_eq_true, Bool.and_eq_true, beq_iff_eq, beq_iff_eq, beq_iff_eq,
    Bool.not_eq_true', Bool.not_eq_true', and_assoc]

theorem loadAfter_of_missing {st : Store} {b : Bau} {x : Axle} {gate : Bool}
    (h : gate = false ∨ b.samples.get (axleLeft x) = none ∨ b.samples.get (axleRight x) = none) :
    loadAfter st b x gate = b.load.get x := by
  rcases h with shut | left | right
  · subst shut; rfl
  · cases gate with
    | false => rfl
    | true => simp only [loadAfter, left]
  · cases gate with
    | false => rfl
    | true =>
      cases left : b.samples.get (axleLeft x) with
      | none => simp only [loadAfter, left]
      | some l => simp only [loadAfter, left, right]

theorem loadAfter_of_both {st : Store} {b : Bau} {x : Axle} {l r : Int} (left : b.samples.get (axleLeft x) = some l)
    (right : b.samples.get (axleRight x) = some r) : loadAfter st b x true =
      clamp (st.lMin x) (st.lMax x) (st.uA x + (l + r) * st.gA x / 256) := by
  simp only [loadAfter, left, right]; rfl

theorem bauLoad_of_same {x : Axle} {l : Int} {s : State} (h : s.bau.load.get x = l) : bauLoad x l s = s := if_pos h

theorem bauLoad_of_change {x : Axle} {l : Int} {s : State} (h : s.bau.load.get x ≠ l) :
    bauLoad x l s = bauRecompute { s with bau := { s.bau with load := s.bau.load.set x l } } := if_neg h

theorem bauPressure_of_load {k : Corner} {p l : Int} {gate : Bool} {s : State}
    (h : loadAfter s.store (bauStored k p gate s.bau) (cornerAxle k) gate = l) :
    bauPressure k p gate s = bauLoad (cornerAxle k) l { s with bau := bauStored k p gate s.bau } := by
  rw [bauPressure, h]

/-! The lost axles and the floor flag (R78, R86) -/

theorem bauNode_of_same {x : Axle} {st : NodeState} {s : State} (h : s.bau.lost.get x = decide (st = .lost)) :
    bauNode x st s = s := if_pos h

theorem bauNode_of_change {x : Axle} {st : NodeState} {s : State} (h : s.bau.lost.get x ≠ decide (st = .lost)) :
    bauNode x st s = bauRecompute { s with bau := { s.bau with lost := s.bau.lost.set x (decide (st = .lost)) } } := if_neg h

theorem floorStands_iff (st : Store) (doors : PerDoor Bool) (k : KneelState) : floorStands st doors k = true ↔
    (∃ n, st.doorFitted n = true ∧ doors.get n = true) ∨ k ≠ .normal := by
  rw [floorStands, Bool.or_eq_true, bne_iff_ne, List.any_eq_true]
  simp only [mem_door_all, true_and, Bool.and_eq_true]

theorem bauFloor_of_same {doors : PerDoor Bool} {k : KneelState} {s : State} (h : s.bau.floor = floorStands s.store doors k) :
    bauFloor doors k s =
      { s with bau := { s.bau with doors := doors, kneel := k, floor := floorStands s.store doors k } } := by
  rw [bauFloor, if_pos h, ← h]

theorem bauFloor_of_change {doors : PerDoor Bool} {k : KneelState} {s : State} (h : s.bau.floor ≠ floorStands s.store doors k) :
    bauFloor doors k s = bauRecompute
      { s with bau := { s.bau with doors := doors, kneel := k, floor := floorStands s.store doors k } } := if_neg h

/-! Saturation (R81, R91) -/

theorem saturationNow_iff (st : Store) (b : Bau) (x : Axle) :
    (saturationNow st b).get x = true ↔ ∃ d, d ∈ saturating st b x := by
  rw [saturationNow, PerAxle_get_of, Bool.not_eq_true', List.isEmpty_eq_false_iff_exists_mem]

section Raised

variable {was : PerAxle Bool} {x : Axle} {s : State}

theorem raiseSaturated_of_set (clear : was.get x = false) (set : s.bau.saturated.get x = true) : raiseSaturated was x s =
    detect .brakeSaturated .bau (some (.brk x)) (saturatedItem s.store s.bau x (largest (saturating s.store s.bau x))) s := by
  rw [raiseSaturated, clear, set]; rfl

theorem raiseSaturated_has (clear : was.get x = false) (set : s.bau.saturated.get x = true) (awake : s.mode ≠ .powerup) :
    (raiseSaturated was x s).fu.has .brakeSaturated = true := by
  rw [raiseSaturated_of_set clear set]
  exact detect_has _ _ _ _ _ awake

theorem raiseSaturated_keeps_has (h : s.fu.has .brakeSaturated = true) :
    (raiseSaturated was x s).fu.has .brakeSaturated = true := (raiseSaturated_mild s was x).same.statuses _ h

theorem mode_raiseSaturated (awake : s.mode ≠ .powerup) : (raiseSaturated was x s).mode ≠ .powerup := by
  unfold raiseSaturated
  split
  · exact mode_detect_ne_powerup awake _ _ _ _
  · exact awake

end Raised

/-- A recompute's flags, before its faults. -/
def saturated (s : State) : State := { s with bau := { s.bau with saturated := saturationNow s.store s.bau } }

theorem judgeSaturation_eq (s : State) : judgeSaturation s = raiseSaturated s.bau.saturated .c
    (raiseSaturated s.bau.saturated .b (raiseSaturated s.bau.saturated .a (saturated s))) := rfl

/-- A flag that sets raises BRAKE_SATURATED (R81). -/
theorem judgeSaturation_has {s : State} {x : Axle} (clear : s.bau.saturated.get x = false)
    (set : (saturationNow s.store s.bau).get x = true) (awake : s.mode ≠ .powerup) :
    (judgeSaturation s).fu.has .brakeSaturated = true := by
  generalize first : raiseSaturated s.bau.saturated .a (saturated s) = u
  have flags_u : u.bau = (saturated s).bau := by rw [← first, raiseSaturated_bau]
  have awake_u : u.mode ≠ .powerup := by rw [← first]; exact mode_raiseSaturated awake
  generalize second : raiseSaturated s.bau.saturated .b u = v
  have flags_v : v.bau = (saturated s).bau := by rw [← second, raiseSaturated_bau, flags_u]
  have awake_v : v.mode ≠ .powerup := by rw [← second]; exact mode_raiseSaturated awake_u
  rw [judgeSaturation_eq, first, second]
  cases x with
  | a =>
    refine raiseSaturated_keeps_has ?_
    rw [← second]
    refine raiseSaturated_keeps_has ?_
    rw [← first]
    exact raiseSaturated_has (s := saturated s) clear set awake
  | b =>
    refine raiseSaturated_keeps_has ?_
    rw [← second]
    exact raiseSaturated_has clear (by rw [flags_u]; exact set) awake_u
  | c => exact raiseSaturated_has clear (by rw [flags_v]; exact set) awake_v

/-- A recompute that sets no flag raises nothing. -/
theorem judgeSaturation_of_none {s : State}
    (h : ∀ x, (saturationNow s.store s.bau).get x = true → s.bau.saturated.get x = true) : judgeSaturation s = saturated s := by
  have steady : ∀ x, raiseSaturated s.bau.saturated x (saturated s) = saturated s := fun x => by
    refine raiseSaturated_of_not _ _ _ ?_
    cases flag : (saturationNow s.store s.bau).get x with
    | true => exact .inl (h x flag)
    | false => exact .inr flag
  rw [judgeSaturation_eq, steady, steady, steady]

/-! BAU at a placement (R85) -/

theorem bau_placeClaim_of_accepts {s : State} {src : Source} {c : Channel} (h : accepts s src c = true) :
    (placeClaim src c s).bau = { s.bau with given := givenAfter s src c } := by
  rw [placeClaim_of_accepts h]; rfl

theorem givenAfter_of_value {s : State} {x : Axle} {k : Fin 12} {v : Int} (rear : x ≠ .a)
    (h : valueGiven s x (s.store.entryKind k) = some v) :
    givenAfter s (.entry (.prog k)) (.brk x) = putGiven x k v s.bau.given := by
  simp only [givenAfter, if_neg rear, h]

theorem givenAfter_of_none {s : State} {x : Axle} {k : Fin 12} (rear : x ≠ .a)
    (h : valueGiven s x (s.store.entryKind k) = none) : givenAfter s (.entry (.prog k)) (.brk x) = s.bau.given := by
  simp only [givenAfter, if_neg rear, h]

/-- Settles O49. -/
theorem brakePressureFormed : Obligations.BrakePressureFormed := by
  unfold Obligations.BrakePressureFormed
  refine ⟨fun b positive => ?loads, fun st b x d => ⟨pressure_of_none, fun asked live => pressure_of_some ⟨asked, live⟩⟩,
    fun st b x => ?sources, gateOpen_iff, fun k p gate s => ?estimate, fun x st s => ⟨bauNode_of_same, bauNode_of_change⟩,
    fun doors kneel s => ⟨floorStands_iff _ _ _, bauFloor_of_same, bauFloor_of_change⟩, fun s => ?copies, fun s => ?recompute,
    fun was s => ?saturation, fun s x k taken => ?given⟩
  case loads =>
    intro mAll live mLive
    refine ⟨apportioned_of_noneLost, fun some_lost some_live x => ⟨?_, apportioned_le_mAll positive some_lost x⟩,
      fun x alive others => apportioned_of_alone positive alive others⟩
    cases lost : b.lost.get x with
    | true => exact apportioned_of_lost lost
    | false => exact apportioned_of_live some_lost lost
  case sources =>
    intro floor halt
    have floor_eq : floored st b x = floor := funext fun v => floored_eq st b x v
    refine ⟨?_, ?_, fun moving => ?_, brakeSetpoint_safe_atRest, fun rear => ⟨rfl, rfl, rfl⟩, fun k kind =>
      brakeSetpoint_halt kind, fun k kind rear => ?_, fun k kind => (brakeSetpoint_given kind).trans (if_pos rfl)⟩
    · rw [← floor_eq]; rfl
    · rw [← floor_eq]; rfl
    · rw [← floor_eq]; exact brakeSetpoint_safe_moving moving
    · rw [← floor_eq]; exact (brakeSetpoint_given kind).trans (if_neg rear)
  case estimate =>
    intro x b left right
    refine ⟨fun missing => ?_, fun l r opened left_eq right_eq => ?_⟩
    · rw [bauPressure_of_load (loadAfter_of_missing missing)]
      exact bauLoad_of_same rfl
    · intro e
      subst opened
      rw [bauPressure_of_load (loadAfter_of_both left_eq right_eq)]
      exact ⟨fun same => bauLoad_of_same same.symm, fun change => bauLoad_of_change (Ne.symm change)⟩
  case copies =>
    exact ⟨fun d => ⟨rfl, fun same => if_pos same, fun change => if_neg change⟩,
      fun b => ⟨rfl, fun same => if_pos same, fun change => if_neg change⟩,
      fun b => ⟨rfl, fun same => if_pos same, fun change => if_neg change⟩, fun x st => rfl, fun d => rfl, fun k => rfl,
      fun prev new => rfl, fun x => ⟨bauLoad_of_same, bauLoad_of_change⟩⟩
  case recompute =>
    intro b used exceeds t
    have exceeds_iff : ∀ x, (saturationNow s.store s.bau).get x = true ↔ exceeds x := fun x =>
      (saturationNow_iff s.store s.bau x).trans (exists_congr fun d => mem_saturating s.store s.bau x d)
    have bau : t.bau = { b with saturated := saturationNow s.store s.bau } := bauRecompute_bau s
    refine ⟨fun x => by rw [bau]; exact exceeds_iff x, by rw [bau], fun x clear beyond awake => ?_, fun steady => ?_, rfl,
      fun x => rfl⟩
    · exact judgeSaturation_has clear ((exceeds_iff x).2 beyond) awake
    · have quiet := judgeSaturation_of_none fun x set => steady x ((exceeds_iff x).1 set)
      change (judgeSaturation s).fu = s.fu ∧ (judgeSaturation s).mc = s.mc
      rw [quiet]
      exact ⟨rfl, rfl⟩
  case saturation =>
    intro raised u
    refine ⟨fun same => by subst same; rfl, fun x clear set => raiseSaturated_of_set clear set,
      fun x d clear set nonneg member bound => ?_, fun x d => mem_saturating s.store s.bau x d,
      fun x steady => raiseSaturated_of_not s was x steady⟩
    have whole := raiseSaturated_of_set clear set
    rw [largest_of_max nonneg member bound] at whole
    exact whole
  case given =>
    intro t
    have bau : t.bau = { s.bau with given := givenAfter s (.entry (.prog k)) (.brk x) } := bau_placeClaim_of_accepts taken
    refine ⟨fun front => by subst front; exact bau, fun rear => ?_⟩
    rw [bau]
    have recorded : ∀ v, valueGiven s x (s.store.entryKind k) = some v →
        givenValue { s.bau with given := givenAfter s (.entry (.prog k)) (.brk x) } x k = some v := fun v value => by
      rw [givenAfter_of_value rear value, givenValue_put, if_pos ⟨rfl, rfl⟩]
    refine ⟨fun n kind => recorded _ (by rw [kind]; rfl), fun n kind present => recorded n ?_, fun y j other => ?_⟩
    · rw [kind]
      exact congrArg (fun sp => some (numOf sp)) present
    · cases value : valueGiven s x (s.store.entryKind k) with
      | none => rw [givenAfter_of_none rear value]
      | some v => rw [givenAfter_of_value rear value, givenValue_put, if_neg (not_and_or.2 other)]

end Sys2Proof.Machine
end

section

/-! PROOFS. The level laws: target, corner valves and the kneel group (R112, R113, R115 to R117, R119 to R121). -/

namespace Sys2Proof.Machine

open Sys2Proof.Safety

/-! The ride-height target (R112, R113) -/

section Target

variable {st : Store} {l : Lku}

theorem hLaneOf_of_normal (h : l.level = .normal) : hLaneOf st l = 0 := by rw [hLaneOf, h]

theorem hLaneOf_of_low (h : l.level = .low) : hLaneOf st l = -st.hLow := by rw [hLaneOf, h]

theorem hLaneOf_of_high (h : l.level = .high) : hLaneOf st l =
    if l.speedKnown = true ∧ l.v ≤ st.vHighMax ∧ l.mode ≠ .degraded then st.hHigh else 0 := by
  rw [hLaneOf, h]
  simp only [Bool.and_eq_true, decide_eq_true_eq, bne_iff_ne, and_assoc]

end Target

theorem formHLane_of_same {l : Lku} {s : State} (h : hLaneOf s.store l = l.hLane) : formHLane l s = { s with lku := l } :=
  if_pos h

theorem formHLane_of_change {l : Lku} {s : State} (h : hLaneOf s.store l ≠ l.hLane) : formHLane l s =
    rewriteChannels levelChannels (levelRewrite s.store (hLaneOf s.store l))
      { s with lku := { l with hLane := hLaneOf s.store l } } := if_neg h

theorem levelRewrite_entry (st : Store) (h : Int) (k : Corner) (e : Fin 12) :
    levelRewrite st h (.lvl k) (.entry (.prog e)) =
      if st.entryKind e = .followBase ∧ st.entryTargets e (.lvl k) = true then some (.num h) else none := by
  change (if (st.entryKind e == .followBase && st.entryTargets e (.lvl k)) = true then some (Setpoint.num h) else none) = _
  simp only [Bool.and_eq_true, beq_iff_eq]

theorem levelRewrite_of_other (st : Store) (h : Int) (k : Corner) {src : Source} (lane : src ≠ .lane)
    (f3 : src ≠ .entry (.fixed .f3)) (prog : ∀ e, src ≠ .entry (.prog e)) : levelRewrite st h (.lvl k) src = none := by
  cases src with
  | lane => exact absurd rfl lane
  | entry e =>
    cases e with
    | prog e => exact absurd rfl (prog e)
    | fixed f =>
      cases f with
      | f3 => exact absurd rfl f3
      | _ => rfl
  | _ => rfl

theorem lkuMode_of_awake {m : Mode} (h : m ≠ .standby) (s : State) : lkuMode m s = formHLane { s.lku with mode := m } s := by
  rw [lkuMode, if_neg h]

/-! A corner at a response (R115, R117, R119) -/

section Response

variable {st : Store} {atRest : Bool} {h t : Int} {c : CornerState}

theorem cornerResponse_of_forced (forced : c.nodeLost = true ∨ ∀ t, c.effective ≠ .num t) :
    cornerResponse st atRest h c = { c with height := some h } := by
  unfold cornerResponse
  split
  · rename_i t target alive
    rcases forced with lost | unset
    · rw [lost] at alive; cases alive
    · exact absurd target (unset t)
  · rfl

theorem cornerResponse_of_target (target : c.effective = .num t) (alive : c.nodeLost = false) :
    cornerResponse st atRest h c = judgeValve st atRest h t { c with height := some h } := by
  simp only [cornerResponse, target, alive]

theorem deviate_atRest (d : Dir) : deviate st true d c = stepValve st d c := rfl

/-- The persistence timer runs on in its direction, and starts anew in the other (R115). -/
theorem deviate_moving_low : deviate st false .low c = { c with persist := some (.low, match c.persist with
    | some (.low, ms) => ms
    | _ => st.tMove) } := by
  unfold deviate
  rcases c.persist with _ | ⟨_ | _, ms⟩ <;> rfl

theorem deviate_moving_high : deviate st false .high c = { c with persist := some (.high, match c.persist with
    | some (.high, ms) => ms
    | _ => st.tMove) } := by
  unfold deviate
  rcases c.persist with _ | ⟨_ | _, ms⟩ <;> rfl

theorem judgeValve_within (valve : c.valve = .hold) (above : t - st.db ≤ h) (below : h ≤ t + st.db) :
    judgeValve st atRest h t c = { c with persist := none } := by
  rw [judgeValve, valve]
  dsimp only
  rw [if_neg (by omega), if_neg (by omega)]

theorem judgeValve_low (valve : c.valve = .hold) (low : h < t - st.db) : judgeValve st atRest h t c = deviate st atRest .low c := by
  rw [judgeValve, valve]
  dsimp only
  rw [if_pos low]

theorem judgeValve_high (valve : c.valve = .hold) (low : ¬ h < t - st.db) (high : t + st.db < h) :
    judgeValve st atRest h t c = deviate st atRest .high c := by
  rw [judgeValve, valve]
  dsimp only
  rw [if_neg low, if_pos high]

theorem judgeValve_fill (valve : c.valve = .fill) : judgeValve st atRest h t c =
    if t ≤ h then { c with valve := .hold, valveRun := none } else c := by
  rw [judgeValve, valve]

theorem judgeValve_exhaust (valve : c.valve = .exhaust) : judgeValve st atRest h t c =
    if h ≤ t then { c with valve := .hold, valveRun := none } else c := by
  rw [judgeValve, valve]

end Response

/-! The kneel group (R120, R121) -/

theorem kneelHolds_iff (st : Store) (l : Lku) : kneelHolds st l = true ↔
    ∃ j, st.inGroup j = true ∧ (l.corners.get j).holder = some .doorKneel := by
  rw [kneelHolds, List.any_eq_true]
  simp only [mem_groupList, beq_iff_eq]

theorem allAtKneel_iff (st : Store) (l : Lku) : allAtKneel st l = true ↔
    ∀ j, st.inGroup j = true → (l.corners.get j).holder = some .doorKneel ∧
      ∃ h, (l.corners.get j).height = some h ∧ |h - st.kneelHeight| ≤ st.db := by
  rw [allAtKneel, List.all_eq_true]
  simp only [mem_groupList, atKneel_iff]

theorem allReturned_iff (st : Store) (l : Lku) : allReturned st l = true ↔
    ∀ j, st.inGroup j = true → ∃ target, (l.corners.get j).effective = .num target ∧
      ∃ h, (l.corners.get j).height = some h ∧ |h - target| ≤ st.db := by
  rw [allReturned, List.all_eq_true]
  simp only [mem_groupList, returned_iff]

section Next

variable {st : Store} {l : Lku}

theorem kneelNext_of_normal (h : l.kneel = .normal) : kneelNext st l = if kneelHolds st l then .lowering else .normal := by
  rw [kneelNext, h]

theorem kneelNext_of_lowering (h : l.kneel = .lowering) : kneelNext st l =
    if allAtKneel st l then .kneeled else if kneelHolds st l then .lowering else .raising := by
  rw [kneelNext, h]

theorem kneelNext_of_kneeled (h : l.kneel = .kneeled) : kneelNext st l = if kneelHolds st l then .kneeled else .raising := by
  rw [kneelNext, h]

theorem kneelNext_of_raising (h : l.kneel = .raising) : kneelNext st l =
    if kneelHolds st l then .lowering else if allReturned st l then .normal else .raising := by
  rw [kneelNext, h]

end Next

section Judged

variable {s : State} {k : Corner}

theorem judgeKneel_of_outside (h : s.store.inGroup k = false) : judgeKneel k s = s := by
  rw [judgeKneel, h]; rfl

theorem judgeKneel_of_stay (h : kneelNext s.store s.lku = s.lku.kneel) : judgeKneel k s = s := by
  rw [judgeKneel, h, beq_self_eq_true, Bool.or_true, if_pos rfl]

theorem judgeKneel_of_next {st : KneelState} (inside : s.store.inGroup k = true) (next : kneelNext s.store s.lku = st)
    (change : st ≠ s.lku.kneel) : judgeKneel k s = setKneel st s := by
  rw [judgeKneel, inside, next, beq_eq_false_iff_ne.2 change]; rfl

end Judged

/-! What reaches a corner (R115, R119) -/

theorem lkuChannel_holdPresent (k : Corner) (holder : Option Source) (s : State) : lkuChannel k holder .holdPresent s =
    judgeKneel k (setCorner k (forceHold { s.lku.corners.get k with holder := holder, effective := .holdPresent }) s) := rfl

theorem lkuChannel_of_other {sp : Setpoint} (h : sp ≠ .holdPresent) (k : Corner) (holder : Option Source) (s : State) :
    lkuChannel k holder sp s =
      judgeKneel k (setCorner k { s.lku.corners.get k with holder := holder, effective := sp } s) := by
  rw [lkuChannel, if_neg h]

theorem lkuNode_lost (k : Corner) (s : State) :
    lkuNode k .lost s = setCorner k (forceHold { s.lku.corners.get k with nodeLost := true }) s := rfl

theorem lkuNode_of_alive {st : NodeState} (h : st ≠ .lost) (k : Corner) (s : State) :
    lkuNode k st s = setCorner k { s.lku.corners.get k with nodeLost := false } s := by
  rw [lkuNode, if_neg h]

theorem store_bauPressure (k : Corner) (p : Int) (gate : Bool) (s : State) : (bauPressure k p gate s).store = s.store :=
  (bauLoad_mild _ _ { s with bau := bauStored k p gate s.bau }).same.store

/-- Settles O50. -/
theorem levelLawsRun : Obligations.LevelLawsRun := by
  unfold Obligations.LevelLawsRun
  refine ⟨fun st l => ?target, fun st atRest h c => ?response, fun s k => ?kneel, fun l s => ⟨formHLane_of_same,
    formHLane_of_change⟩, fun st h k => ⟨rfl, rfl, levelRewrite_entry st h k, fun src lane f3 prog =>
      levelRewrite_of_other st h k lane f3 prog⟩,
    fun s => ⟨fun m => rfl, fun v known => rfl, fun m awake => lkuMode_of_awake awake s⟩, fun k holder sp changed s => ?channel, fun k st s => ?node, fun s => ⟨fun b => rfl, rfl, rfl⟩, fun k h p s => ?passed⟩
  case target =>
    refine ⟨hLaneOf_of_normal, hLaneOf_of_low, fun high known slow sound => ?_, fun high excluded => ?_⟩
    · rw [hLaneOf_of_high high, if_pos ⟨known, slow, sound⟩]
    · rw [hLaneOf_of_high high, if_neg]
      rintro ⟨known, slow, sound⟩
      rcases excluded with unknown | fast | degraded
      · rw [known] at unknown; cases unknown
      · exact absurd slow (not_le.2 fast)
      · exact sound degraded
  case response =>
    intro c' low high
    refine ⟨cornerResponse_of_forced, fun t target alive => ?_⟩
    have judged : c' = judgeValve st atRest h t { c with height := some h } := cornerResponse_of_target target alive
    rw [judged]
    refine ⟨fun valve => ⟨fun above below => ?_, fun deep => ?_, fun shallow tall => ?_⟩, fun valve => ?_, fun valve => ?_⟩
    · exact judgeValve_within (c := { c with height := some h }) valve above below
    · rw [judgeValve_low (c := { c with height := some h }) valve deep]
      cases atRest with
      | true => rfl
      | false => exact deviate_moving_low (c := { c with height := some h })
    · rw [judgeValve_high (c := { c with height := some h }) valve shallow tall]
      cases atRest with
      | true => rfl
      | false => exact deviate_moving_high (c := { c with height := some h })
    · exact judgeValve_fill (c := { c with height := some h }) valve
    · exact judgeValve_exhaust (c := { c with height := some h }) valve
  case kneel =>
    intro t near holds allDown allBack goes
    have holds_iff : kneelHolds s.store s.lku = true ↔ holds := kneelHolds_iff s.store s.lku
    have down_iff : allAtKneel s.store s.lku = true ↔ allDown := allAtKneel_iff s.store s.lku
    have back_iff : allReturned s.store s.lku = true ↔ allBack := allReturned_iff s.store s.lku
    refine ⟨judgeKneel_of_outside, fun inside => ?_⟩
    refine ⟨fun state held => ?_, fun state free => ?_, fun state down => ?_, fun state up held => ?_, fun state free up => ?_,
      fun state held => ?_, fun state free => ?_, fun state held => ?_, fun state free back => ?_, fun state free away => ?_⟩
    · exact judgeKneel_of_next inside ((kneelNext_of_normal state).trans (if_pos (holds_iff.2 held))) (by rw [state]; nofun)
    · exact judgeKneel_of_stay (((kneelNext_of_normal state).trans (if_neg (mt holds_iff.1 free))).trans state.symm)
    · exact judgeKneel_of_next inside ((kneelNext_of_lowering state).trans (if_pos (down_iff.2 down))) (by rw [state]; nofun)
    · refine judgeKneel_of_stay ((kneelNext_of_lowering state).trans ?_)
      rw [if_neg (mt down_iff.1 up), if_pos (holds_iff.2 held), state]
    · refine judgeKneel_of_next inside ((kneelNext_of_lowering state).trans ?_) (by rw [state]; nofun)
      rw [if_neg (mt down_iff.1 up), if_neg (mt holds_iff.1 free)]
    · exact judgeKneel_of_stay (((kneelNext_of_kneeled state).trans (if_pos (holds_iff.2 held))).trans state.symm)
    · exact judgeKneel_of_next inside ((kneelNext_of_kneeled state).trans (if_neg (mt holds_iff.1 free))) (by rw [state]; nofun)
    · exact judgeKneel_of_next inside ((kneelNext_of_raising state).trans (if_pos (holds_iff.2 held))) (by rw [state]; nofun)
    · refine judgeKneel_of_next inside ((kneelNext_of_raising state).trans ?_) (by rw [state]; nofun)
      rw [if_neg (mt holds_iff.1 free), if_pos (back_iff.2 back)]
    · refine judgeKneel_of_stay ((kneelNext_of_raising state).trans ?_)
      rw [if_neg (mt holds_iff.1 free), if_neg (mt back_iff.1 away), state]
  case channel =>
    intro c u
    exact ⟨fun held => by subst held; exact lkuChannel_holdPresent k holder s, fun other => lkuChannel_of_other other k holder s⟩
  case node =>
    intro c u
    exact ⟨fun lost => by subst lost; exact lkuNode_lost k s, fun alive => lkuNode_of_alive alive k s⟩
  case passed =>
    intro passed
    have lku : passed.lku = s.lku := bauPressure_lku s k p _
    have store : passed.store = s.store := store_bauPressure k p _ s
    refine ⟨lku, ?_⟩
    change judgeKneel k (setCorner k (cornerResponse passed.store passed.lku.atRest h (passed.lku.corners.get k)) passed) = _
    rw [setCorner, store, lku]

end Sys2Proof.Machine
end

section

/-! PROOFS. The interlock entries: their fields, the judgement and what follows from it (R144 to R151, R180). -/

namespace Sys2Proof.Machine

open Sys2Proof.Safety

/-! The comparison (R148) -/

section Compare

variable {f : EntryFields} {q : Int} {was : Bool}

theorem compareEntry_above (h : f.comparison = .above) : compareEntry f q was =
    if was then !decide (q ≤ f.operand - f.hysteresis) else decide (f.operand < q) := by
  simp only [compareEntry, h]

theorem compareEntry_below (h : f.comparison = .below) : compareEntry f q was =
    if was then !decide (f.operand + f.hysteresis ≤ q) else decide (q < f.operand) := by
  simp only [compareEntry, h]

theorem compareEntry_any (h : f.comparison = .any) : compareEntry f q was = true ↔ q ≠ 0 := by
  simp only [compareEntry, h, bne_iff_ne]

theorem compareEntry_none (h : f.comparison = .none) : compareEntry f q was = true ↔ q = 0 := by
  simp only [compareEntry, h, beq_iff_eq]

end Compare

section Judged

variable {st : Store} {locked : Bool} {i : Ict} {e : Entry}

theorem judged_of_unarmed (h : armed st locked e = false) : judged st locked i e = false := by
  rw [judged, h, Bool.false_and, Bool.false_and]

theorem judged_of_outside (h : modeIn i.mode (entryFields st e).modes = false) : judged st locked i e = false := by
  rw [judged, h, Bool.and_false, Bool.false_and]

theorem judged_of_armed (on : armed st locked e = true) (inside : modeIn i.mode (entryFields st e).modes = true) :
    judged st locked i e = compareEntry (entryFields st e) (entryValue i (entryFields st e)) (i.isTrue e) := by
  rw [judged, on, inside]; rfl

end Judged

/-! The value judged (R146) -/

/-- The members of a set of doors, counted. -/
theorem doorCountOf_eq (p : Door → Bool) : doorCountOf (.of p) = ([Door.d1, .d2, .d3, .d4].filter p).length := by
  have one : ∀ b : Bool, (if b = true then 1 else 0) = b.toNat := fun b => by cases b <;> rfl
  rw [← List.countP_eq_length_filter]
  simp only [List.countP_cons, List.countP_nil, one]
  change ((p .d1).toNat : Int) + (p .d2).toNat + (p .d3).toNat + (p .d4).toNat = _
  push_cast
  ring

theorem entryValue_doors {i : Ict} {f : EntryFields} (h : f.watched = .doorsUnsecured) :
    entryValue i f = ([Door.d1, .d2, .d3, .d4].filter fun n => i.doors.get n && f.mask.get n).length := by
  simp only [entryValue, h, doorCountOf_eq]

theorem entryValue_doors_bounds {i : Ict} {f : EntryFields} (h : f.watched = .doorsUnsecured) :
    0 ≤ entryValue i f ∧ entryValue i f ≤ 4 ∧
      (entryValue i f ≠ 0 ↔ ∃ n, i.doors.get n = true ∧ f.mask.get n = true) := by
  rw [entryValue_doors h]
  have few := List.length_filter_le (fun n => i.doors.get n && f.mask.get n) Door.all
  refine ⟨Int.natCast_nonneg _, by exact_mod_cast few, ?_⟩
  rw [Int.natCast_ne_zero, ← Nat.pos_iff_ne_zero, List.length_filter_pos_iff]
  simp only [Bool.and_eq_true]
  exact ⟨fun ⟨n, _, both⟩ => ⟨n, both⟩, fun ⟨n, both⟩ => ⟨n, mem_door_all n, both⟩⟩

theorem entryValue_of_watched (i : Ict) (f : EntryFields) :
    (f.watched = .speed → entryValue i f = if i.speedKnown = true then i.v else 1200) ∧
    (f.watched = .articAbs → entryValue i f = i.articAbs) ∧
    (f.watched = .brakeDemand → entryValue i f = i.demand) ∧
    (f.watched = .atRest → entryValue i f = if i.atRest = true then 1 else 0) ∧
    (f.watched = .kneelNotNormal → entryValue i f = if i.kneel = .normal then 0 else 1) ∧
    (f.watched = .emerg → entryValue i f = if i.emerg = true then 1 else 0) := by
  have number : ∀ b : Bool, ((b.toNat : Nat) : Int) = if b = true then 1 else 0 := fun b => by cases b <;> rfl
  refine ⟨fun h => ?_, fun h => ?_, fun h => ?_, fun h => ?_, fun h => ?_, fun h => ?_⟩ <;> simp only [entryValue, h]
  · exact number _
  · rw [number]; simp only [bne_iff_ne, ite_not]
  · exact number _

/-! The truth set (R149) -/

theorem entryBit_lt (e : Entry) : entryBit e < 16 := by
  rcases e with f | k
  · cases f <;> decide
  · change 4 + k.val < 16; omega

theorem entryBit_inj {d e : Entry} (h : entryBit d = entryBit e) : d = e := by
  have number : ∀ x : Entry, Entry.all[entryBit x]? = some x := fun x => by
    rcases x with f | k
    · cases f <;> rfl
    · revert k; decide
  exact Option.some.inj ((number d).symm.trans ((congrArg (Entry.all[·]?) h).trans (number e)))

theorem entryMask_bit (d e : Entry) : (BitVec.ofNat 16 (2 ^ entryBit e)).getLsbD (entryBit d) = decide (d = e) := by
  rw [BitVec.getLsbD_ofNat, decide_eq_true (entryBit_lt d), Bool.true_and, Nat.testBit_two_pow, decide_eq_decide]
  exact ⟨fun same => (entryBit_inj same).symm, fun same => by rw [same]⟩

theorem setTruth_bit (t : BitVec 16) (d e : Entry) (b : Bool) :
    (setTruth t e b).getLsbD (entryBit d) = if d = e then b else t.getLsbD (entryBit d) := by
  have low := entryBit_lt d
  cases b with
  | true =>
    change (t ||| BitVec.ofNat 16 (2 ^ entryBit e)).getLsbD (entryBit d) = _
    rw [BitVec.getLsbD_or, entryMask_bit]
    by_cases same : d = e
    · rw [decide_eq_true same, if_pos same, Bool.or_true]
    · rw [decide_eq_false same, if_neg same, Bool.or_false]
  | false =>
    change (t &&& ~~~ BitVec.ofNat 16 (2 ^ entryBit e)).getLsbD (entryBit d) = _
    rw [BitVec.getLsbD_and, BitVec.getLsbD_not, entryMask_bit, decide_eq_true low, Bool.true_and]
    by_cases same : d = e
    · rw [decide_eq_true same, if_pos same, Bool.not_true, Bool.and_false]
    · rw [decide_eq_false same, if_neg same, Bool.not_false, Bool.and_true]

/-! An entry judged (R149 to R151) -/

theorem ict_placeClaims (src : Source) (cs : List Channel) (s : State) : (placeClaims src cs s).ict = s.ict :=
  placeClaims_induction (fun t => t.ict = s.ict) src (fun c t kept => by rw [placeClaim_frame]; exact kept) cs s rfl

theorem ict_withdrawClaims (src : Source) (cs : List Channel) (s : State) : (withdrawClaims src cs s).ict = s.ict :=
  withdrawClaims_induction (fun t => t.ict = s.ict) src (fun _ _ kept => kept) cs s rfl

section Entries

variable {e : Entry} {s : State}

theorem judgeEntry_of_same (h : judged s.store s.mc.locked s.ict e = s.ict.isTrue e) : judgeEntry e s = s := if_pos h

theorem judgeEntry_of_rise (h : judged s.store s.mc.locked s.ict e ≠ s.ict.isTrue e)
    (rise : judged s.store s.mc.locked s.ict e = true) : judgeEntry e s =
      placeClaims (.entry e) (entryFields s.store e).targets
        { s with ict := { s.ict with truth := setTruth s.ict.truth e true } } := by
  rw [judgeEntry, if_neg h, if_pos rise]

theorem judgeEntry_of_fall (h : judged s.store s.mc.locked s.ict e ≠ s.ict.isTrue e)
    (fall : judged s.store s.mc.locked s.ict e = false) : judgeEntry e s =
      withdrawClaims (.entry e) (entryFields s.store e).targets
        { s with ict := { s.ict with truth := setTruth s.ict.truth e false } } := by
  rw [judgeEntry, if_neg h, fall]; rfl

theorem isTrue_judgeEntry (d e : Entry) (s : State) : (judgeEntry e s).ict.isTrue d =
    if d = e then judged s.store s.mc.locked s.ict e else s.ict.isTrue d := by
  by_cases same : judged s.store s.mc.locked s.ict e = s.ict.isTrue e
  · rw [judgeEntry_of_same same, same]
    split
    · subst d; rfl
    · rfl
  · cases turn : judged s.store s.mc.locked s.ict e with
    | true => rw [judgeEntry_of_rise same turn, ict_placeClaims]; exact setTruth_bit _ _ _ _
    | false => rw [judgeEntry_of_fall same turn, ict_withdrawClaims]; exact setTruth_bit _ _ _ _

end Entries

/-! The fields (R144, R145, R147) -/

theorem armed_iff (st : Store) (locked : Bool) (e : Entry) : armed st locked e = true ↔
    (entryFields st e).modes ≠ 0 ∧ (entryFields st e).targets ≠ [] ∧ (entryFields st e).level ≠ 0 ∧
      ((∃ k, e = .prog k) → locked = true) := by
  have fields : ∀ f : EntryFields, (f.modes != 0 && !f.targets.isEmpty && f.level != 0) = true ↔
      f.modes ≠ 0 ∧ f.targets ≠ [] ∧ f.level ≠ 0 := fun f => by
    rw [Bool.and_eq_true, Bool.and_eq_true, bne_iff_ne, bne_iff_ne, Bool.not_eq_true', and_assoc, ← Bool.not_eq_true,
      List.isEmpty_iff]
  cases e with
  | fixed f =>
    change ((_ && _ && _) && true) = true ↔ _
    rw [Bool.and_true, fields]
    exact ⟨fun ⟨modes, targets, level⟩ => ⟨modes, targets, level, nofun⟩,
      fun ⟨modes, targets, level, _⟩ => ⟨modes, targets, level⟩⟩
  | prog k =>
    change ((_ && _ && _) && locked) = true ↔ _
    rw [Bool.and_eq_true, fields, and_assoc, and_assoc]
    exact and_congr_right fun _ => and_congr_right fun _ => and_congr_right fun _ => ⟨fun h _ => h, fun h => h ⟨k, rfl⟩⟩

theorem modeIn_iff (m : Mode) (set : BitVec 3) : modeIn m set = true ↔
    m = .run ∧ set.getLsbD 0 = true ∨ m = .degraded ∧ set.getLsbD 1 = true ∨ m = .safeStop ∧ set.getLsbD 2 = true := by
  cases m <;> simp [modeIn]

theorem ofCode_of_listed {i : Nat} {w : Watched} (h : [Watched.speed, .atRest, .articAbs, .doorsUnsecured, .kneelNotNormal,
    .brakeDemand, .emerg][i]? = some w) : Watched.ofCode i = w := by
  have low := (List.getElem?_eq_some_iff.1 h).1
  change i < 7 at low
  interval_cases i <;> cases h <;> rfl

theorem comparison_of_listed {i : Nat} {c : Comparison} (h : [Comparison.above, .below, .any, .none][i]? = some c) :
    Comparison.ofCode i = c := by
  have low := (List.getElem?_eq_some_iff.1 h).1
  change i < 4 at low
  interval_cases i <;> cases h <;> rfl

theorem spKindOf_of_listed {i : Nat} {kind : SpKind}
    (h : [SpKind.halt, .off, .centre, .followBase, .holdPresent][i]? = some kind) : spKindOf (65536 * i) = kind := by
  have code : (65536 * (i : Int)).toNat / 65536 = i := by omega
  rw [spKindOf_eq, code, List.getD_eq_getElem?_getD, h]; rfl

theorem spKindOf_value (n : Word) : spKindOf (65536 * 5 + (n.toNat : Int)) = .value n.toInt := by
  have low : n.toNat < 65536 := n.isLt
  have code : (65536 * 5 + (n.toNat : Int)).toNat / 65536 = 5 := by omega
  have value : BitVec.ofNat 16 (65536 * 5 + (n.toNat : Int)).toNat = n := by
    apply BitVec.eq_of_toNat_eq
    rw [BitVec.toNat_ofNat]
    omega
  rw [spKindOf_eq, code, value]; rfl

/-- Settles O51. -/
theorem entriesJudged : Obligations.EntriesJudged := by
  unfold Obligations.EntriesJudged
  refine ⟨fun st locked i e => ?judged, fun i f => ?values, fun s => ?copies, fun e s => ?entry, fun s a => rfl, armed_iff,
    modeIn_iff, fun st => ?fixed, fun st k => ?prog⟩
  case judged =>
    intro f q b was
    refine ⟨judged_of_unarmed, judged_of_outside, fun on inside => ?_, fun doors => entryValue_doors_bounds doors⟩
    have compared : b = compareEntry f q was := judged_of_armed on inside
    rw [compared]
    refine ⟨fun above => ⟨fun clear => ?_, fun stood => ?_⟩, fun below => ⟨fun clear => ?_, fun stood => ?_⟩,
      fun any => compareEntry_any any, fun none => compareEntry_none none⟩
    · rw [compareEntry_above above, clear]; exact decide_eq_true_iff
    · rw [compareEntry_above above, stood, if_pos rfl, Bool.not_eq_false', decide_eq_true_iff]
    · rw [compareEntry_below below, clear]; exact decide_eq_true_iff
    · rw [compareEntry_below below, stood, if_pos rfl, Bool.not_eq_false', decide_eq_true_iff]
  case values =>
    intro q
    obtain ⟨speed, artic, demand, rest, kneel, emerg⟩ := entryValue_of_watched i f
    exact ⟨speed, artic, demand, rest, kneel, emerg, entryValue_doors⟩
  case copies =>
    intro order judges
    refine ⟨rfl, fun e es => rfl, fun v known => rfl, fun a => rfl, fun d => rfl, fun b => rfl, fun k => rfl, fun b => rfl,
      fun d => rfl, fun m awake => ?_, rfl⟩
    rw [ictMode, if_neg awake, if_neg awake]; rfl
  case entry =>
    intro b turned targets
    refine ⟨judgeEntry_of_same, fun change rise => ?_, fun change fall => ?_, ?_, fun e' other => ?_⟩
    · have truth : turned = { s with ict := { s.ict with truth := setTruth s.ict.truth e true } } := by
        rw [← rise]
      rw [truth]; exact judgeEntry_of_rise change rise
    · have truth : turned = { s with ict := { s.ict with truth := setTruth s.ict.truth e false } } := by
        rw [← fall]
      rw [truth]; exact judgeEntry_of_fall change fall
    · exact (isTrue_judgeEntry e e s).trans (if_pos rfl)
    · exact (isTrue_judgeEntry e' e s).trans (if_neg other)
  case fixed =>
    intro row
    refine ⟨⟨rfl, rfl, rfl, rfl, rfl, rfl⟩, ⟨rfl, rfl, rfl, rfl, rfl, rfl⟩, ⟨rfl, rfl, rfl, rfl, rfl, rfl⟩,
      ⟨rfl, rfl, rfl, rfl, rfl, rfl⟩, fun n => ?_⟩
    exact (iff_of_eq (congrArg (· = true) (PerDoor_get_of st.doorFitted n))).trans (doorFitted_iff st n)
  case prog =>
    intro f item
    refine ⟨fun i w stored listed => ?_, fun i c stored listed => ?_, rfl, rfl, fun n => PerDoor_get_of _ n, rfl, fun c => ?_,
      rfl, fun i kind stored listed => ?_, fun n stored => ?_⟩
    · exact (congrArg Watched.ofCode stored).trans (ofCode_of_listed listed)
    · exact (congrArg Comparison.ofCode stored).trans (comparison_of_listed listed)
    · exact List.mem_filter.trans (and_iff_right (mem_channel_all c))
    · exact (congrArg spKindOf stored).trans (spKindOf_of_listed listed)
    · exact (congrArg spKindOf stored).trans (spKindOf_value n)

end Sys2Proof.Machine
end

section

/-! PROOFS. What the end of a transaction does to the node's record (R46 to R48, R51, R53, R60, R66). -/

namespace Sys2Proof.Machine

open Sys2Proof.Safety

/-! No block's operation enters POWERUP -/

theorem mode_bauRecompute {s : State} (awake : s.mode ≠ .powerup) : (bauRecompute s).mode ≠ .powerup := by
  change (judgeSaturation s).mode ≠ .powerup
  exact mode_raiseSaturated (mode_raiseSaturated (mode_raiseSaturated awake))

theorem mode_placeClaim (src : Source) (c : Channel) (s : State) : (placeClaim src c s).mode = s.mode := by
  rw [placeClaim_frame]; rfl

theorem Moves.awake {s t : State} (h : Moves s t) : s.mode ≠ .powerup → t.mode ≠ .powerup := by
  induction h with
  | refl s => exact id
  | trans _ _ ih ih' => exact fun awake => ih' (ih awake)
  | aside h => rw [h.mode]; exact id
  | place src c s _ => rw [mode_placeClaim]; exact id
  | withdraw src c s => exact id
  | steer j s => exact id
  | level h k s => exact id
  | brake b s _ _ _ _ => exact fun awake => mode_bauRecompute awake
  | detected k src ch item s => exact fun awake => mode_detect_ne_powerup awake k src ch item
  | kneeled k s => exact id
  | cleared s => exact id

/-! What leaves the node records alone -/

theorem brakeEnd_mild (x : Axle) (round : Nat) (sample : Option Int) (s : State) : Mild s (brakeEnd x round sample s) :=
  mruRecompute_mild s _

theorem noMeasure_mild (n : Node) (kind : CmdKind) (s : State) : Mild s (noMeasure n kind s) := by
  unfold noMeasure
  split
  · exact brakeEnd_mild _ _ _ _
  · exact emptyHistory_mild _
  · exact .refl s

theorem jointSample_mild (th : Int) (s : State) : Mild s (jointSample th s) :=
  Mild.after (announce_mild _ _ (by unfold thetaEvents; split <;> rfl)) (.of_eq rfl rfl rfl rfl rfl rfl rfl rfl rfl)

theorem bauPressure_mild (k : Corner) (p : Int) (gate : Bool) (s : State) : Mild s (bauPressure k p gate s) :=
  Mild.after (bauLoad_mild _ _ _) (.of_eq rfl rfl rfl rfl rfl rfl rfl rfl rfl)

theorem levelResponse_mild (k : Corner) (h p : Int) (s : State) : Mild s (levelResponse k h p s) :=
  Mild.after (judgeKneel_mild _ _) ((bauPressure_mild k p _ s).trans (.of_eq rfl rfl rfl rfl rfl rfl rfl rfl rfl))

theorem echoEnd_mild (received matched : Bool) (s : State) : Mild s (echoEnd received matched s) := by
  unfold echoEnd
  dsimp only
  split
  · exact Mild.after (finishTest_mild _ _) (withFlc_mild _ _ rfl)
  · exact withFlc_mild _ _ rfl

theorem judgeEcho_mild (x : Txn) (received matched : Bool) (s : State) : Mild s (judgeEcho x received matched s) := by
  unfold judgeEcho
  split
  · exact echoEnd_mild _ _ _
  · exact .refl s

theorem endTxn_mild (s : State) : Mild s (endTxn s) := withFlc_mild _ _ rfl

theorem afterTxn_mild (s : State) : Mild s (afterTxn s) := by
  unfold afterTxn
  split
  · exact finishTest_mild _ _
  · exact .refl s

theorem tellFollow_mild (n : Node) (s : State) : Mild s (tellFollow n s) := by
  unfold tellFollow
  split
  · exact announce_mild _ _ rfl
  · exact .refl s

theorem raiseCapacity_mild (n : Node) (s : State) : Mild s (raiseCapacity n s) := by
  unfold raiseCapacity
  split
  · split
    · exact detect_mild _ _ _ _ _
    · exact .refl s
  · exact .refl s

theorem becomeLost_mild (x : Txn) (k : MissKind) (s : State) : Mild s (becomeLost x k s) :=
  Mild.after (raiseCapacity_mild _ _) (detect_mild _ _ _ _ _)

/-! The record of one node -/

/-- From `s` to `t` the record of node `n` is changed by `f`; the other records and the store stand, no status is lost, and a
calm state stays calm. -/
structure OnNode (n : Node) (f : NodeRec → NodeRec) (s t : State) : Prop where
  record : t.flc.nodes.get n = f (s.flc.nodes.get n)
  others : ∀ m, m ≠ n → t.flc.nodes.get m = s.flc.nodes.get m
  store : t.store = s.store
  statuses : ∀ k, s.fu.has k = true → t.fu.has k = true
  calm : CalmState s → CalmState t

section Effects

variable {n : Node} {f g : NodeRec → NodeRec} {s t u : State}

theorem OnNode.trans (h : OnNode n f s t) (h' : OnNode n g t u) : OnNode n (fun r => g (f r)) s u where
  record := by rw [h'.record, h.record]
  others := fun m other => (h'.others m other).trans (h.others m other)
  store := h'.store.trans h.store
  statuses := fun k has => h'.statuses k (h.statuses k has)
  calm := fun calm => h'.calm (h.calm calm)

theorem OnNode.then_mild (h : OnNode n f s t) (mild : Mild t u) : OnNode n f s u where
  record := by rw [mild.same.nodes, h.record]
  others := fun m other => by rw [mild.same.nodes, h.others m other]
  store := mild.same.store.trans h.store
  statuses := fun k has => mild.same.statuses k (h.statuses k has)
  calm := fun calm => mild.calmState (h.calm calm)

theorem OnNode.after_mild (mild : Mild s t) (h : OnNode n f t u) : OnNode n f s u where
  record := by rw [h.record, mild.same.nodes]
  others := fun m other => by rw [h.others m other, mild.same.nodes]
  store := h.store.trans mild.same.store
  statuses := fun k has => h.statuses k (mild.same.statuses k has)
  calm := fun calm => h.calm (mild.calmState calm)

theorem OnNode.of_mild (mild : Mild s t) : OnNode n (fun r => r) s t where
  record := by rw [mild.same.nodes]
  others := fun m _ => by rw [mild.same.nodes]
  store := mild.same.store
  statuses := mild.same.statuses
  calm := mild.calmState

/-- The record written. -/
theorem OnNode.of_set (nodes : t.flc.nodes = s.flc.nodes.set n (f (s.flc.nodes.get n))) (store : t.store = s.store)
    (fu : t.fu = s.fu) (calm : CalmState s → CalmState t) : OnNode n f s t where
  record := by rw [nodes, PerNode_get_set, if_pos rfl]
  others := fun m other => by rw [nodes, PerNode_get_set, if_neg other]
  store := store
  statuses := fun k has => by rw [fu]; exact has
  calm := calm

end Effects

theorem onNode_setNode (n : Node) (f : NodeRec → NodeRec) (s : State) : OnNode n f s (setNode n (f (s.flc.nodes.get n)) s) :=
  .of_set rfl rfl rfl (setNode_actsOnWrite n _ s).calm

theorem onNode_keepMeasures (n : Node) (a b : Int) (s : State) :
    OnNode n (fun r => { r with m1 := a, m2 := b }) s (keepMeasures n a b s) := .of_set rfl rfl rfl id

/-! The return code (R51) -/

theorem takeCode_zero (x : Txn) (m1 m2 : Word) (s : State) : takeCode x 0 m1 m2 s = s := rfl

theorem takeCode_of_code (x : Txn) {code : Nat} (h : code ≠ 0) (m1 m2 : Word) (s : State) : takeCode x code m1 m2 s =
    detect (codeFault code) (.node x.node) (some x.node.channel) (responseItem x code m1 m2) (recordCode x.node code s) :=
  if_neg h

theorem codeFault_eq (code : Nat) :
    codeFault code = if code = 3 then .nodeSensor else if code = 4 then .nodeActuator else .nodeCode := by
  unfold codeFault
  split
  · rfl
  · rfl
  · rename_i not_3 not_4
    rw [if_neg not_3, if_neg not_4]

theorem onNode_takeCode (x : Txn) (code : Nat) (m1 m2 : Word) (s : State) :
    OnNode x.node (fun r => { r with lastCode := if code = 0 then r.lastCode else code }) s (takeCode x code m1 m2 s) := by
  by_cases ok : code = 0
  · subst ok
    exact .of_mild (.refl s)
  · rw [takeCode_of_code x ok]
    simp only [if_neg ok]
    have recorded : OnNode x.node (fun r => { r with lastCode := code }) s (recordCode x.node code s) :=
      .of_set rfl rfl rfl id
    exact recorded.then_mild (detect_mild _ _ _ _ _)

/-- A non-zero code raises its fault outside POWERUP. -/
theorem takeCode_has (x : Txn) {code : Nat} (h : code ≠ 0) (m1 m2 : Word) {s : State} (awake : s.mode ≠ .powerup) :
    (takeCode x code m1 m2 s).fu.has (codeFault code) = true := by
  rw [takeCode_of_code x h]
  exact detect_has _ _ _ _ _ awake

/-! The follow monitor (R53) -/

/-- The state as the follow count has been stepped. -/
def followStepped (x : Txn) (tol achieved : Int) (s : State) : State :=
  withFlc { s.flc with
    nodes := s.flc.nodes.set x.node { s.flc.nodes.get x.node with
      follow := followStep tol achieved x.value (s.flc.nodes.get x.node).follow } } s

theorem onNode_followStepped (x : Txn) (tol achieved : Int) (s : State) :
    OnNode x.node (fun r => { r with follow := followStep tol achieved x.value r.follow }) s (followStepped x tol achieved s) :=
  .of_set rfl rfl rfl id

theorem followMonitor_of_reached {x : Txn} {tol achieved : Int} {s : State} (before : (s.flc.nodes.get x.node).follow = 19)
    (after : followStep tol achieved x.value (s.flc.nodes.get x.node).follow = 20) (item : List Byte) :
    followMonitor x tol achieved item s = tellFollow x.node (detect .followError (.node x.node) (some x.node.channel)
      (item ++ wordInt x.value) (followStepped x tol achieved s)) := if_pos ⟨before, after⟩

theorem onNode_followMonitor (x : Txn) (tol achieved : Int) (item : List Byte) (s : State) :
    OnNode x.node (fun r => { r with follow := followStep tol achieved x.value r.follow }) s
      (followMonitor x tol achieved item s) := by
  have stepped := onNode_followStepped x tol achieved s
  by_cases reached : (s.flc.nodes.get x.node).follow = 19 ∧
      followStep tol achieved x.value (s.flc.nodes.get x.node).follow = 20
  · rw [followMonitor_of_reached reached.1 reached.2]
    exact (stepped.then_mild (detect_mild _ _ _ _ _)).then_mild (tellFollow_mild _ _)
  · have quiet : followMonitor x tol achieved item s = followStepped x tol achieved s := if_neg reached
    rw [quiet]
    exact stepped

theorem followMonitor_has {x : Txn} {tol achieved : Int} {s : State} (awake : s.mode ≠ .powerup)
    (before : (s.flc.nodes.get x.node).follow = 19)
    (after : followStep tol achieved x.value (s.flc.nodes.get x.node).follow = 20) (item : List Byte) :
    (followMonitor x tol achieved item s).fu.has .followError = true := by
  rw [followMonitor_of_reached before after]
  exact (tellFollow_mild _ _).same.statuses _ (detect_has _ _ _ _ _ awake)

end Sys2Proof.Machine
end

section

/-! PROOFS. A good SET or ECHO response (R46, R48, R50 to R54, R57, R66). -/

namespace Sys2Proof.Machine

open Sys2Proof.Safety

/-! The measurements handed on (R46, R53) -/

/-- The follow count as a good SET response leaves it (R53). -/
def goodFollow (st : Store) (x : Txn) (m1 : Word) (count : Nat) : Nat :=
  match x.node with
  | .brk _ => followStep st.brakeTol (clamp 0 1000 m1.toNat) x.value count
  | .str => followStep st.steerTol m1.toInt x.value count
  | _ => count

/-- The measurements as a good SET response leaves them (R46). -/
def goodMeasures (n : Node) (m1 m2 : Word) : Int × Int :=
  match n with
  | .brk _ => (clamp 0 1000 m1.toNat, clamp 0 1200 m2.toNat)
  | .str => (m1.toInt, 0)
  | .jnt => (m1.toInt, (m2.toNat : Int))
  | .lvl _ => (clamp (-150) 150 m1.toInt, clamp 0 1000 m2.toNat)

/-- The record as a good SET response's measurements leave it. -/
def measured (st : Store) (x : Txn) (m1 m2 : Word) (r : NodeRec) : NodeRec :=
  { r with
    follow := goodFollow st x m1 r.follow
    m1 := (goodMeasures x.node m1 m2).1
    m2 := (goodMeasures x.node m1 m2).2 }

section HandOn

variable {x : Txn} {axle : Axle} {k : Corner} (code : Nat) (m1 m2 : Word) (s : State)

theorem handOn_brk (h : x.node = .brk axle) : handOn x code m1 m2 s =
    followMonitor x s.store.brakeTol (clamp 0 1000 m1.toNat) (responseItem x code m1 m2)
      (brakeEnd axle s.flc.round (some (clamp 0 1200 m2.toNat))
        (keepMeasures x.node (clamp 0 1000 m1.toNat) (clamp 0 1200 m2.toNat) s)) := by
  simp only [handOn, h]

theorem handOn_str (h : x.node = .str) : handOn x code m1 m2 s =
    followMonitor x s.store.steerTol m1.toInt (responseItem x code m1 m2) (keepMeasures x.node m1.toInt 0 s) := by
  simp only [handOn, h, signed]

theorem handOn_jnt (h : x.node = .jnt) : handOn x code m1 m2 s =
    jointSample m1.toInt (keepMeasures x.node m1.toInt m2.toNat s) := by
  simp only [handOn, h, signed]

theorem handOn_lvl (h : x.node = .lvl k) : handOn x code m1 m2 s =
    levelResponse k (clamp (-150) 150 m1.toInt) (clamp 0 1000 m2.toNat)
      (keepMeasures x.node (clamp (-150) 150 m1.toInt) (clamp 0 1000 m2.toNat) s) := by
  simp only [handOn, h, signed]

end HandOn

/-- A SET response kept by a brake node and its sample taken by MRU. -/
theorem onNode_brakeSample (n : Node) (axle : Axle) (round : Nat) (a b : Int) (s : State) :
    OnNode n (fun r => { r with m1 := a, m2 := b }) s (brakeEnd axle round (some b) (keepMeasures n a b s)) :=
  (onNode_keepMeasures n a b s).then_mild (brakeEnd_mild axle round (some b) _)

section Measured

variable {x : Txn} {axle : Axle} {k : Corner} (st : Store) (m1 m2 : Word)

theorem measured_brk (h : x.node = .brk axle) : measured st x m1 m2 = fun r => { r with
    follow := followStep st.brakeTol (clamp 0 1000 m1.toNat) x.value r.follow
    m1 := clamp 0 1000 m1.toNat
    m2 := clamp 0 1200 m2.toNat } := by
  funext r; simp only [measured, goodFollow, goodMeasures, h]

theorem measured_str (h : x.node = .str) : measured st x m1 m2 = fun r => { r with
    follow := followStep st.steerTol m1.toInt x.value r.follow
    m1 := m1.toInt
    m2 := 0 } := by
  funext r; simp only [measured, goodFollow, goodMeasures, h]

theorem measured_jnt (h : x.node = .jnt) :
    measured st x m1 m2 = fun r => { r with m1 := m1.toInt, m2 := m2.toNat } := by
  funext r; simp only [measured, goodFollow, goodMeasures, h]

theorem measured_lvl (h : x.node = .lvl k) : measured st x m1 m2 = fun r => { r with
    m1 := clamp (-150) 150 m1.toInt
    m2 := clamp 0 1000 m2.toNat } := by
  funext r; simp only [measured, goodFollow, goodMeasures, h]

end Measured

theorem onNode_handOn (x : Txn) (code : Nat) (m1 m2 : Word) (s : State) :
    OnNode x.node (measured s.store x m1 m2) s (handOn x code m1 m2 s) := by
  cases node : x.node with
  | brk axle =>
    rw [handOn_brk code m1 m2 s node, measured_brk s.store m1 m2 node, ← node]
    exact (onNode_brakeSample x.node axle _ _ _ s).trans (onNode_followMonitor x _ _ _ _)
  | str =>
    rw [handOn_str code m1 m2 s node, measured_str s.store m1 m2 node, ← node]
    exact (onNode_keepMeasures x.node _ _ s).trans (onNode_followMonitor x _ _ _ _)
  | jnt =>
    rw [handOn_jnt code m1 m2 s node, measured_jnt s.store m1 m2 node, ← node]
    exact (onNode_keepMeasures x.node _ _ s).then_mild (jointSample_mild _ _)
  | lvl k =>
    rw [handOn_lvl code m1 m2 s node, measured_lvl s.store m1 m2 node, ← node]
    exact (onNode_keepMeasures x.node _ _ s).then_mild (levelResponse_mild _ _ _ _)

/-- FOLLOW_ERROR is raised as the follow count reaches 20 (R53). -/
theorem handOn_has {x : Txn} {s : State} (awake : s.mode ≠ .powerup) (before : (s.flc.nodes.get x.node).follow = 19)
    {m1 : Word} (after : goodFollow s.store x m1 19 = 20) (code : Nat) (m2 : Word) :
    (handOn x code m1 m2 s).fu.has .followError = true := by
  unfold goodFollow at after
  cases node : x.node with
  | brk axle =>
    rw [handOn_brk code m1 m2 s node]
    simp only [node] at after
    have kept := onNode_brakeSample x.node axle s.flc.round (clamp 0 1000 m1.toNat) (clamp 0 1200 m2.toNat) s
    have awake' := (brakeEnd_moves (keepMeasures x.node (clamp 0 1000 m1.toNat) (clamp 0 1200 m2.toNat) s) axle s.flc.round
      (some (clamp 0 1200 m2.toNat))).awake awake
    generalize brakeEnd axle s.flc.round (some (clamp 0 1200 m2.toNat))
      (keepMeasures x.node (clamp 0 1000 m1.toNat) (clamp 0 1200 m2.toNat) s) = u at kept awake' ⊢
    have count : (u.flc.nodes.get x.node).follow = 19 := by rw [kept.record]; exact before
    exact followMonitor_has awake' count (by rw [count]; exact after) _
  | str =>
    rw [handOn_str code m1 m2 s node]
    simp only [node] at after
    have kept := onNode_keepMeasures x.node m1.toInt 0 s
    have awake' : (keepMeasures x.node m1.toInt 0 s).mode ≠ .powerup := awake
    generalize keepMeasures x.node m1.toInt 0 s = u at kept awake' ⊢
    have count : (u.flc.nodes.get x.node).follow = 19 := by rw [kept.record]; exact before
    exact followMonitor_has awake' count (by rw [count]; exact after) _
  | jnt => simp only [node] at after; cases after
  | lvl k => simp only [node] at after; cases after

/-! The whole response -/

/-- The record as the state and the code of a good response leave it (R48, R51). -/
def codedRecord (mode : Mode) (code : Nat) (r : NodeRec) : NodeRec :=
  { nodeGood mode r with lastCode := if code = 0 then r.lastCode else code }

theorem onNode_goodCoded (x : Txn) (code : Nat) (m1 m2 : Word) (s : State) :
    OnNode x.node (codedRecord s.mode code) s (goodCoded x code m1 m2 s) :=
  (onNode_setNode x.node (nodeGood s.mode) s).trans (onNode_takeCode x code m1 m2 _)

theorem setResponse_of_unread {code : Nat} (h : code = 3) (x : Txn) (m1 m2 : Word) (s : State) :
    setResponse x code m1 m2 s = noMeasure x.node .set s := if_pos h

theorem setResponse_of_read {code : Nat} (h : code ≠ 3) (x : Txn) (m1 m2 : Word) (s : State) :
    setResponse x code m1 m2 s = handOn x code m1 m2 s := if_neg h

/-- The record as a good response leaves it. -/
def goodRecord (mode : Mode) (st : Store) (x : Txn) (code : Nat) (m1 m2 : Word) (r : NodeRec) : NodeRec :=
  if x.kind = .echo ∨ code = 3 then codedRecord mode code r else measured st x m1 m2 (codedRecord mode code r)

/-- An ECHO, and a code 3, hand no measurement on (R51, R57). -/
theorem goodResponse_of_unread {x : Txn} {code : Nat} (h : x.kind = .echo ∨ code = 3) (m1 m2 : Word) (s : State) :
    Mild (goodCoded x code m1 m2 s) (goodResponse x code m1 m2 s) := by
  by_cases echo : x.kind = .echo
  · rw [goodResponse_of_echo echo]
    exact (echoEnd_mild _ _ _).trans (noMeasure_mild _ _ _)
  · rw [goodResponse_of_set echo, setResponse_of_unread (h.resolve_left echo)]
    exact noMeasure_mild _ _ _

theorem goodResponse_of_read {x : Txn} {code : Nat} (h : ¬ (x.kind = .echo ∨ code = 3)) (m1 m2 : Word) (s : State) :
    goodResponse x code m1 m2 s = handOn x code m1 m2 (goodCoded x code m1 m2 s) := by
  obtain ⟨set, read⟩ := not_or.1 h
  rw [goodResponse_of_set set, setResponse_of_read read]

theorem onNode_goodResponse (x : Txn) (code : Nat) (m1 m2 : Word) (s : State) :
    OnNode x.node (goodRecord s.mode s.store x code m1 m2) s (goodResponse x code m1 m2 s) := by
  have coded := onNode_goodCoded x code m1 m2 s
  unfold goodRecord
  by_cases unread : x.kind = .echo ∨ code = 3
  · simp only [if_pos unread]
    exact coded.then_mild (goodResponse_of_unread unread m1 m2 s)
  · simp only [if_neg unread]
    have handed := onNode_handOn x code m1 m2 (goodCoded x code m1 m2 s)
    rw [coded.store] at handed
    rw [goodResponse_of_read unread]
    exact coded.trans handed

/-- The code's fault is among the statuses after the response (R51, R54). -/
theorem goodResponse_has_code {x : Txn} {code : Nat} (coded : code ≠ 0) (m1 m2 : Word) {s : State} (awake : s.mode ≠ .powerup) :
    (goodResponse x code m1 m2 s).fu.has (codeFault code) = true := by
  have raised : (goodCoded x code m1 m2 s).fu.has (codeFault code) = true :=
    takeCode_has x coded m1 m2 (s := setNode x.node (nodeGood s.mode (s.flc.nodes.get x.node)) s) awake
  by_cases unread : x.kind = .echo ∨ code = 3
  · exact (goodResponse_of_unread unread m1 m2 s).same.statuses _ raised
  · rw [goodResponse_of_read unread]
    exact (onNode_handOn x code m1 m2 _).statuses _ raised

theorem goodResponse_has_follow {x : Txn} {code : Nat} {m1 m2 : Word} {s : State} (awake : s.mode ≠ .powerup)
    (before : (s.flc.nodes.get x.node).follow = 19)
    (after : (goodRecord s.mode s.store x code m1 m2 (s.flc.nodes.get x.node)).follow = 20) :
    (goodResponse x code m1 m2 s).fu.has .followError = true := by
  have coded := onNode_goodCoded x code m1 m2 s
  by_cases unread : x.kind = .echo ∨ code = 3
  · rw [goodRecord, if_pos unread] at after
    cases before.symm.trans after
  · rw [goodRecord, if_neg unread] at after
    have count : ((goodCoded x code m1 m2 s).flc.nodes.get x.node).follow = 19 := by rw [coded.record]; exact before
    have reached : goodFollow (goodCoded x code m1 m2 s).store x m1 19 = 20 := by
      rw [coded.store, ← before]; exact after
    rw [goodResponse_of_read unread]
    exact handOn_has (((takeCode_moves _ _ _ _ _).after (setNode_moves s _ _)).awake awake) count reached code m2

end Sys2Proof.Machine
end

section

/-! PROOFS. A good SET or ECHO response, taken to the end of its step (R48, R50 to R54, R57, R66). -/

namespace Sys2Proof.Machine

open Sys2Proof.Safety

theorem complete_onNode {n : Node} {f : NodeRec → NodeRec} {s t : State} (h : OnNode n f s t) (nothing : s.inFlight = []) :
    (complete t).flc.nodes.get n = f (s.flc.nodes.get n) ∧
    (∀ m, m ≠ n → (complete t).flc.nodes.get m = s.flc.nodes.get m) ∧
    ∀ k, t.fu.has k = true → (complete t).fu.has k = true := by
  have kept := complete_calm t (h.calm (calmState_of_empty nothing))
  exact ⟨by rw [kept.nodes, h.record], fun m other => by rw [kept.nodes, h.others m other], kept.statuses⟩

theorem onNode_goodTaken (s : State) (x : Txn) (code : Nat) (m1 m2 : Word) :
    OnNode x.node (goodRecord s.mode s.store x code m1 m2) s (afterTxn (goodResponse x code m1 m2 (endTxn s))) :=
  .after_mild (endTxn_mild s) ((onNode_goodResponse x code m1 m2 (endTxn s)).then_mild (afterTxn_mild _))

/-! The record a good response leaves -/

section Record

variable {mode : Mode} {st : Store} {x : Txn} {code : Nat} {m1 m2 : Word} {r : NodeRec}

theorem goodRecord_misses : (goodRecord mode st x code m1 m2 r).misses = 0 := by
  unfold goodRecord; split <;> rfl

theorem goodRecord_state : (goodRecord mode st x code m1 m2 r).state = stateAfterGood mode r.state := by
  unfold goodRecord; split <;> rfl

theorem goodRecord_lastCode :
    (goodRecord mode st x code m1 m2 r).lastCode = if code = 0 then r.lastCode else code := by
  unfold goodRecord; split <;> rfl

theorem goodRecord_of_unread (h : x.kind = .echo ∨ code = 3) : goodRecord mode st x code m1 m2 r = codedRecord mode code r :=
  if_pos h

theorem goodRecord_of_read (h : ¬ (x.kind = .echo ∨ code = 3)) :
    goodRecord mode st x code m1 m2 r = measured st x m1 m2 (codedRecord mode code r) := if_neg h

end Record

/-! The parts written out -/

/-- A LOST node stays LOST outside CONFIG and SERVICE; any other becomes ACTIVE (R48). -/
theorem stateAfterGood_eq (mode : Mode) (st : NodeState) : stateAfterGood mode st = match st with
    | .lost => if mode = .config ∨ mode = .service then .active else .lost
    | _ => .active := by
  cases st <;> rfl

/-- An ECHO hands on nothing but, from JNT, that no sample came (R57, R66). -/
theorem noMeasure_echo (n : Node) (s : State) : noMeasure n .echo s = if n = .jnt then emptyHistory s else s := by
  cases n <;> rfl

/-- A SET that brought no measurement (R60, R66). -/
theorem noMeasure_set (n : Node) (s : State) : noMeasure n .set s = match n with
    | .brk axle => brakeEnd axle s.flc.round none s
    | .jnt => emptyHistory s
    | _ => s := by
  cases n <;> rfl

/-- The follow monitor, with its fault and the mark of STR_C (R53, R102). -/
theorem followMonitor_eq (x : Txn) (tol achieved : Int) (item : List Byte) (s : State) :
    let before := (s.flc.nodes.get x.node).follow
    let after := if tol < |achieved - x.value| then min 20 (before + 1) else 0
    let w : State := { s with flc := { s.flc with
      nodes := s.flc.nodes.set x.node { s.flc.nodes.get x.node with follow := after } } }
    let raised := detect .followError (.node x.node) (some x.node.channel) (item ++ wordInt x.value) w
    followMonitor x tol achieved item s = if before = 19 ∧ after = 20
      then (if x.node = .str then announce [.followMark true] raised else raised) else w := rfl

/-- Settles O35. -/
theorem goodResponseTaken : Obligations.GoodResponseTaken := by
  unfold Obligations.GoodResponseTaken
  refine ⟨fun s x code m1 m2 nothing running => ?taken, fun s x code m1 m2 => ?response, fun s => rfl,
    fun s x code m1 m2 => ?parts, fun s code m1 m2 none => ?_⟩
  case taken =>
    intro r exceeds
    have effect := onNode_goodTaken s x code.val m1 m2
    have awake_has : ∀ k, (goodResponse x code.val m1 m2 (endTxn s)).fu.has k = true →
        (afterTxn (goodResponse x code.val m1 m2 (endTxn s))).fu.has k = true := (afterTxn_mild _).same.statuses
    obtain ⟨record, others, statuses⟩ := complete_onNode effect nothing
    have coded : ∀ awake : s.mode ≠ .powerup, ∀ fault, code ≠ 0 → codeFault code.val = fault →
        (complete (afterTxn (goodResponse x code.val m1 m2 (endTxn s)))).fu.has fault = true := fun awake fault some_code which => by
      rw [← which]
      exact statuses _ (awake_has _ (goodResponse_has_code (mt Fin.val_eq_zero_iff.1 some_code) m1 m2 (s := endTxn s) awake))
    refine ⟨_, (exec_fieldResponseReceived code m1 m2 s).trans (by rw [fieldResponse_of_fitted running]), ?_, ?_, ?_, ?_, others,
      ?_, fun awake => ⟨fun sensor => ?_, fun actuator => ?_, fun some_code not_3 not_4 => ?_, fun before after => ?_⟩, rfl⟩
    · rw [record, goodRecord_misses]
    · rw [record, goodRecord_state]
      exact stateAfterGood_eq s.mode r.state
    · rw [record, goodRecord_lastCode]
      simp only [Fin.val_eq_zero_iff]; rfl
    · rw [record]
      by_cases unread : x.kind = .echo ∨ code = 3
      · rw [if_pos unread, goodRecord_of_unread (unread.imp_right (congrArg Fin.val))]; rfl
      · rw [if_neg unread, goodRecord_of_read (mt (Or.imp_right fun three => Fin.ext three) unread)]; rfl
    · rw [record]
      by_cases unread : x.kind = .echo ∨ code = 3
      · rw [if_pos unread, goodRecord_of_unread (unread.imp_right (congrArg Fin.val))]; rfl
      · rw [if_neg unread, goodRecord_of_read (mt (Or.imp_right fun three => Fin.ext three) unread)]; rfl
    · exact coded awake _ (by rw [sensor]; decide) (by rw [sensor]; rfl)
    · exact coded awake _ (by rw [actuator]; decide) (by rw [actuator]; rfl)
    · have val_3 : code.val ≠ 3 := fun three => not_3 (Fin.ext three)
      have val_4 : code.val ≠ 4 := fun four => not_4 (Fin.ext four)
      exact coded awake _ some_code (by rw [codeFault_eq, if_neg val_3, if_neg val_4])
    · rw [record] at after
      exact statuses _ (awake_has _ (goodResponse_has_follow (s := endTxn s) awake before after))
  case response =>
    intro r state coded
    have state_eq : stateAfterGood s.mode r.state = state := stateAfterGood_eq s.mode r.state
    have coded_eq : goodCoded x code m1 m2 s = coded := by
      rw [goodCoded, nodeGood, state_eq]
    refine ⟨fun n r => rfl, fun set => ?_, fun echo => ?_⟩
    · rw [goodResponse_of_set set, coded_eq]
    · rw [goodResponse_of_echo echo, noMeasure_echo, coded_eq]
  case parts =>
    intro measured item follows
    refine ⟨fun ok => ?_, fun some_code => ?_, fun sensor => ?_, fun read => ?_⟩
    · subst ok; rfl
    · rw [takeCode_of_code x some_code, codeFault_eq]; rfl
    · rw [setResponse_of_unread sensor]
      exact noMeasure_set x.node s
    · rw [setResponse_of_read read]
      cases node : x.node with
      | brk axle =>
        rw [handOn_brk code m1 m2 s node]
        exact followMonitor_eq _ _ _ _ _
      | str =>
        rw [handOn_str code m1 m2 s node]
        exact followMonitor_eq _ _ _ _ _
      | jnt => exact handOn_jnt code m1 m2 s node
      | lvl k => exact handOn_lvl code m1 m2 s node
  · rw [exec_fieldResponseReceived, fieldResponse_of_none none]

end Sys2Proof.Machine
end

section

/-! PROOFS. A miss of a SET or ECHO transaction (R47, R50, R54, R57, R60, R66). -/

namespace Sys2Proof.Machine

open Sys2Proof.Safety

/-! The faults of a miss (R47, R50, R54) -/

/-- The state as FIELD_MISS has been raised. -/
def missRaised (x : Txn) (k : MissKind) (s : State) : State :=
  detect .fieldMiss (.node x.node) (some x.node.channel) (commandItem x (missCode k))
    (setNode x.node (nodeMissed s.store.missLimit (s.flc.nodes.get x.node)) s)

theorem onNode_missRaised (x : Txn) (k : MissKind) (s : State) :
    OnNode x.node (nodeMissed s.store.missLimit) s (missRaised x k s) :=
  (onNode_setNode x.node (nodeMissed s.store.missLimit) s).then_mild (detect_mild _ _ _ _ _)

theorem missFaults_of_lost {x : Txn} {s : State} (was : (s.flc.nodes.get x.node).state ≠ .lost)
    (now : (nodeMissed s.store.missLimit (s.flc.nodes.get x.node)).state = .lost) (k : MissKind) :
    missFaults x k s = becomeLost x k (missRaised x k s) := by
  have missed : ((missRaised x k s).flc.nodes.get x.node).state = .lost := by
    rw [(onNode_missRaised x k s).record]; exact now
  exact if_pos ⟨was, missed⟩

theorem missFaults_of_kept {x : Txn} {s : State} (h : ¬ ((s.flc.nodes.get x.node).state ≠ .lost ∧
    (nodeMissed s.store.missLimit (s.flc.nodes.get x.node)).state = .lost)) (k : MissKind) :
    missFaults x k s = missRaised x k s :=
  if_neg fun both => h ⟨both.1, by rw [← (onNode_missRaised x k s).record]; exact both.2⟩

theorem missFaults_mild (x : Txn) (k : MissKind) (s : State) : Mild (missRaised x k s) (missFaults x k s) := by
  by_cases lost : (s.flc.nodes.get x.node).state ≠ .lost ∧
      (nodeMissed s.store.missLimit (s.flc.nodes.get x.node)).state = .lost
  · rw [missFaults_of_lost lost.1 lost.2]
    exact becomeLost_mild _ _ _
  · rw [missFaults_of_kept lost]
    exact .refl _

theorem missResponse_mild (x : Txn) (k : MissKind) (s : State) : Mild (missFaults x k s) (missResponse x k s) :=
  (judgeEcho_mild x false false _).trans (noMeasure_mild _ _ _)

theorem onNode_missTaken (s : State) (x : Txn) (k : MissKind) :
    OnNode x.node (nodeMissed s.store.missLimit) s (afterTxn (missResponse x k (endTxn s))) :=
  .after_mild (endTxn_mild s) ((onNode_missRaised x k (endTxn s)).then_mild
    (((missFaults_mild x k _).trans (missResponse_mild x k _)).trans (afterTxn_mild _)))

theorem missRaised_has (x : Txn) (k : MissKind) {s : State} (awake : s.mode ≠ .powerup) :
    (missRaised x k s).fu.has .fieldMiss = true := detect_has _ _ _ _ _ awake

theorem state_nodeMissed_of_limit {limit : Nat} {r : NodeRec} (h : limit ≤ min 255 (r.misses + 1)) :
    (nodeMissed limit r).state = .lost := if_pos h

/-- The state as NODE_LOST has been raised. -/
def lostRaised (x : Txn) (k : MissKind) (s : State) : State :=
  detect .nodeLost (.node x.node) (some x.node.channel)
    (commandItem x (missCode k) ++ [byte (s.flc.nodes.get x.node).misses]) s

theorem becomeLost_eq (x : Txn) (k : MissKind) (s : State) : becomeLost x k s = raiseCapacity x.node (lostRaised x k s) := rfl

theorem becomeLost_has (x : Txn) (k : MissKind) {s : State} (awake : s.mode ≠ .powerup) :
    (becomeLost x k s).fu.has .nodeLost = true :=
  (raiseCapacity_mild _ _).same.statuses _ (detect_has _ _ _ _ _ awake)

/-! BRAKE_CAPACITY (R50, R54) -/

theorem otherBrakeLost_iff (f : Flc) (x : Axle) :
    otherBrakeLost f x = true ↔ ∃ y, y ≠ x ∧ (f.nodes.get (.brk y)).state = .lost := by
  rw [otherBrakeLost, List.any_eq_true]
  have mem_all : ∀ y, y ∈ Axle.all := fun y => by cases y <;> decide
  simp only [mem_all, true_and, Bool.and_eq_true, bne_iff_ne, lostAxles, PerAxle_get_of, beq_iff_eq]

theorem raiseCapacity_brk {x : Axle} {s : State} (h : ∃ y, y ≠ x ∧ (s.flc.nodes.get (.brk y)).state = .lost) :
    raiseCapacity (.brk x) s = detect .brakeCapacity .flc (some (.brk x)) [axleSet (lostAxles s.flc)] s :=
  if_pos ((otherBrakeLost_iff s.flc x).2 h)

theorem raiseCapacity_of_none {n : Node} {s : State}
    (h : ¬ ∃ x y, n = .brk x ∧ y ≠ x ∧ (s.flc.nodes.get (.brk y)).state = .lost) : raiseCapacity n s = s := by
  cases n with
  | brk x => exact if_neg fun lost => h (by obtain ⟨y, other⟩ := (otherBrakeLost_iff s.flc x).1 lost; exact ⟨x, y, rfl, other⟩)
  | _ => rfl

end Sys2Proof.Machine
end

section

/-! PROOFS. A miss of a SET or ECHO transaction, taken to the end of its step (R47, R50, R54, R57, R60, R66). -/

namespace Sys2Proof.Machine

open Sys2Proof.Safety

/-! The faults of a miss leave the units alone -/

/-- From `s` to `t` MRU, BAU, LKU, the store and the round number stand. -/
structure UnitsStand (s t : State) : Prop where
  mru : t.mru = s.mru
  round : t.flc.round = s.flc.round
  store : t.store = s.store
  bau : t.bau = s.bau
  lku : t.lku = s.lku

theorem UnitsStand.refl (s : State) : UnitsStand s s := ⟨rfl, rfl, rfl, rfl, rfl⟩

theorem UnitsStand.trans {s t u : State} (h : UnitsStand s t) (g : UnitsStand t u) : UnitsStand s u :=
  ⟨g.mru.trans h.mru, g.round.trans h.round, g.store.trans h.store, g.bau.trans h.bau, g.lku.trans h.lku⟩

theorem unitsStand_detect (k : FaultKind) (src : FaultSource) (ch : Option Channel) (item : List Byte) (s : State) :
    UnitsStand s (detect k src ch item s) where
  mru := by rw [detect_frame]
  round := by rw [detect_frame]
  store := detect_store _ _ _ _ _
  bau := by rw [detect_frame]
  lku := by rw [detect_frame]

theorem unitsStand_becomeLost (x : Txn) (k : MissKind) (s : State) : UnitsStand s (becomeLost x k s) := by
  have capacity : ∀ u, UnitsStand u (raiseCapacity x.node u) := fun u => by
    unfold raiseCapacity
    split
    · split
      · exact unitsStand_detect _ _ _ _ u
      · exact .refl u
    · exact .refl u
  exact (unitsStand_detect _ _ _ _ s).trans (capacity _)

theorem unitsStand_missRaised (x : Txn) (k : MissKind) (s : State) : UnitsStand s (missRaised x k s) :=
  UnitsStand.trans (t := setNode x.node (nodeMissed s.store.missLimit (s.flc.nodes.get x.node)) s) ⟨rfl, rfl, rfl, rfl, rfl⟩
    (unitsStand_detect _ _ _ _ _)

theorem unitsStand_missFaults (x : Txn) (k : MissKind) (s : State) : UnitsStand s (missFaults x k s) := by
  have missed := unitsStand_missRaised x k s
  by_cases lost : (s.flc.nodes.get x.node).state ≠ .lost ∧
      (nodeMissed s.store.missLimit (s.flc.nodes.get x.node)).state = .lost
  · rw [missFaults_of_lost lost.1 lost.2]
    exact missed.trans (unitsStand_becomeLost x k _)
  · rw [missFaults_of_kept lost]
    exact missed

theorem unitsStand_finishTest (r : TestResult) (s : State) : UnitsStand s (finishTest r s) := by
  have ended : UnitsStand s (withFlc (flcTestEnded r s.flc) s) := ⟨rfl, rfl, rfl, rfl, rfl⟩
  have raised : UnitsStand (withFlc (flcTestEnded r s.flc) s) (raiseTestFail (withFlc (flcTestEnded r s.flc) s)) := by
    unfold raiseTestFail
    split
    · exact unitsStand_detect _ _ _ _ _
    · exact .refl _
  exact (ended.trans raised).trans ⟨rfl, rfl, rfl, rfl, rfl⟩

theorem unitsStand_judgeEcho (x : Txn) (received matched : Bool) (s : State) :
    UnitsStand s (judgeEcho x received matched s) := by
  unfold judgeEcho echoEnd
  dsimp only
  split
  · split
    · exact UnitsStand.trans (t := withFlc { s.flc with test := echoJudged received matched s.flc.test } s)
        ⟨rfl, rfl, rfl, rfl, rfl⟩ (unitsStand_finishTest _ _)
    · exact ⟨rfl, rfl, rfl, rfl, rfl⟩
  · exact .refl s

/-- The state as the faults have been raised and an ECHO judged. -/
def missJudged (x : Txn) (k : MissKind) (s : State) : State := judgeEcho x false false (missFaults x k s)

theorem unitsStand_missJudged (x : Txn) (k : MissKind) (s : State) : UnitsStand s (missJudged x k s) :=
  (unitsStand_missFaults x k s).trans (unitsStand_judgeEcho x false false _)

/-! What a miss hands on (R60, R66) -/

theorem noMeasure_of_units {s u : State} (h : UnitsStand s u) (n : Node) (kind : CmdKind) : noMeasure n kind u =
    match n, kind with
    | .brk axle, .set => brakeEnd axle s.flc.round none u
    | .jnt, _ => emptyHistory u
    | _, _ => u := by
  rw [← h.round]
  cases n with
  | brk axle => cases kind <;> rfl
  | _ => rfl

/-- The history emptied, with MRU as it stood before the faults. -/
theorem emptyHistory_of_units {s u : State} (h : UnitsStand s u) : emptyHistory u =
    announce [.theta s.mru.theta s.mru.rate false false] { u with mru := { s.mru with history := [], rateValid := false } } := by
  rw [← h.mru]; rfl

theorem noMeasure_announced {s u : State} (h : UnitsStand s u) (n : Node) (kind : CmdKind) : noMeasure n kind u =
    match n, kind with
    | .brk axle, .set => brakeEnd axle s.flc.round none u
    | .jnt, _ => announce [.theta s.mru.theta s.mru.rate false false]
        { u with mru := { s.mru with history := [], rateValid := false } }
    | _, _ => u := by
  rw [← emptyHistory_of_units h]
  exact noMeasure_of_units h n kind

/-! The faults written out (R50, R54) -/

/-- BRAKE_CAPACITY, with the set of the axles that are LOST. -/
theorem raiseCapacity_eq (n : Node) (s : State) :
    let axles : PerAxle Bool := .of fun y => decide ((s.flc.nodes.get (.brk y)).state = .lost)
    let others := ∃ y ∈ [Axle.a, .b, .c], Node.brk y ≠ n ∧ axles.get y = true
    raiseCapacity n s = if (∃ y ∈ [Axle.a, .b, .c], Node.brk y = n) ∧ others
      then detect .brakeCapacity .flc (some n.channel) [axleSet axles] s else s := by
  intro axles others
  have mem_all : ∀ y, y ∈ [Axle.a, .b, .c] := fun y => by cases y <;> decide
  have lost_iff : ∀ y, axles.get y = true ↔ (s.flc.nodes.get (.brk y)).state = .lost := fun y => by
    rw [PerAxle_get_of, decide_eq_true_iff]
  by_cases lost : ∃ x y, n = .brk x ∧ y ≠ x ∧ (s.flc.nodes.get (.brk y)).state = .lost
  · obtain ⟨x, y, rfl, other, gone⟩ := lost
    have both : (∃ y ∈ [Axle.a, .b, .c], Node.brk y = .brk x) ∧ others :=
      ⟨⟨x, mem_all x, rfl⟩, y, mem_all y, fun same => other (Node.brk.inj same), (lost_iff y).2 gone⟩
    rw [if_pos both, raiseCapacity_brk ⟨y, other, gone⟩]; rfl
  · have neither : ¬ ((∃ y ∈ [Axle.a, .b, .c], Node.brk y = n) ∧ others) := by
      rintro ⟨⟨x, _, rfl⟩, y, _, other, gone⟩
      exact lost ⟨x, y, rfl, fun same => other (congrArg Node.brk same), (lost_iff y).1 gone⟩
    rw [if_neg neither, raiseCapacity_of_none lost]

theorem missFaults_eq (x : Txn) (k : MissKind) (s : State) : missFaults x k s =
    if (s.flc.nodes.get x.node).state ≠ .lost ∧ (nodeMissed s.store.missLimit (s.flc.nodes.get x.node)).state = .lost
    then becomeLost x k (missRaised x k s) else missRaised x k s := by
  by_cases lost : (s.flc.nodes.get x.node).state ≠ .lost ∧
      (nodeMissed s.store.missLimit (s.flc.nodes.get x.node)).state = .lost
  · rw [if_pos lost, missFaults_of_lost lost.1 lost.2]
  · rw [if_neg lost, missFaults_of_kept lost]

/-- NODE_LOST carries the miss count as the miss has left it. -/
theorem lostRaised_missRaised (x : Txn) (k : MissKind) (s : State) : lostRaised x k (missRaised x k s) =
    detect .nodeLost (.node x.node) (some x.node.channel)
      (commandItem x (missCode k) ++ [byte (min 255 ((s.flc.nodes.get x.node).misses + 1))]) (missRaised x k s) := by
  rw [lostRaised, (onNode_missRaised x k s).record]; rfl

/-- A brake node LOST beside another raises BRAKE_CAPACITY. -/
theorem missFaults_has_capacity {x : Txn} {s : State} {axle other : Axle} (brake : x.node = .brk axle) (differs : other ≠ axle)
    (gone : (s.flc.nodes.get (.brk other)).state = .lost) (was : (s.flc.nodes.get x.node).state ≠ .lost)
    (now : (nodeMissed s.store.missLimit (s.flc.nodes.get x.node)).state = .lost) (awake : s.mode ≠ .powerup) (k : MissKind) :
    (missFaults x k s).fu.has .brakeCapacity = true := by
  have elsewhere : Node.brk other ≠ x.node := fun same => differs (Node.brk.inj (same.trans brake))
  have nodes : (lostRaised x k (missRaised x k s)).flc.nodes = (missRaised x k s).flc.nodes :=
    (detect_mild _ _ _ _ _).same.nodes
  have stands : ((lostRaised x k (missRaised x k s)).flc.nodes.get (.brk other)).state = .lost := by
    rw [nodes, (onNode_missRaised x k s).others _ elsewhere]; exact gone
  have missed : (missRaised x k s).mode ≠ .powerup := mode_detect_ne_powerup
    (s := setNode x.node (nodeMissed s.store.missLimit (s.flc.nodes.get x.node)) s) awake _ _ _ _
  have still : (lostRaised x k (missRaised x k s)).mode ≠ .powerup := mode_detect_ne_powerup missed _ _ _ _
  rw [missFaults_of_lost was now, becomeLost_eq, brake, raiseCapacity_brk ⟨other, differs, stands⟩]
  exact detect_has _ _ _ _ _ still

/-- Settles O36. -/
theorem missTaken : Obligations.MissTaken := by
  unfold Obligations.MissTaken
  refine ⟨fun s x k nothing running => ?taken, fun s x k => ?units, fun s x k => ?written, fun s k none => ?_⟩
  case taken =>
    intro r n
    obtain ⟨record, others, statuses⟩ := complete_onNode (onNode_missTaken s x k) nothing
    have kept : ∀ fault, (missFaults x k (endTxn s)).fu.has fault = true →
        (complete (afterTxn (missResponse x k (endTxn s)))).fu.has fault = true := fun fault has =>
      statuses _ ((afterTxn_mild _).same.statuses _ ((missResponse_mild x k _).same.statuses _ has))
    refine ⟨_, (exec_responseWindowEnd k s).trans (by rw [windowEnd_of_fitted running]), record, others, fun awake =>
      ⟨?_, fun limit alive => ⟨?_, fun axle other brake differs gone => ?_⟩⟩, rfl⟩
    · exact kept _ ((missFaults_mild x k _).same.statuses _ (missRaised_has x k (s := endTxn s) awake))
    · refine kept _ ?_
      rw [missFaults_of_lost (s := endTxn s) alive (state_nodeMissed_of_limit limit)]
      exact becomeLost_has x k (mode_detect_ne_powerup
        (s := setNode x.node (nodeMissed s.store.missLimit (s.flc.nodes.get x.node)) (endTxn s)) awake _ _ _ _)
    · exact kept _ (missFaults_has_capacity (s := endTxn s) brake differs gone alive (state_nodeMissed_of_limit limit) awake k)
  case units =>
    have units := unitsStand_missJudged x k s
    exact ⟨missJudged x k s, units.mru, units.round, units.store, congrArg Bau.samples units.bau, units.lku,
      noMeasure_announced units x.node x.kind⟩
  case written =>
    intro r n state item channel missed lost axles others capacity faulted judged
    have lost_eq : lostRaised x k missed = lost := lostRaised_missRaised x k s
    have capacity_eq : becomeLost x k missed = capacity := by
      rw [becomeLost_eq, lost_eq]; exact raiseCapacity_eq x.node lost
    have faulted_eq : missFaults x k s = faulted := by
      rw [missFaults_eq, show missRaised x k s = missed from rfl, capacity_eq]; rfl
    have judged_eq : missJudged x k s = judged := by
      rw [missJudged, faulted_eq]; rfl
    have units := unitsStand_missJudged x k s
    rw [judged_eq] at units
    rw [missResponse_eq, show judgeEcho x false false (missFaults x k s) = judged from judged_eq]
    exact noMeasure_of_units units x.node x.kind
  · rw [exec_responseWindowEnd, windowEnd_of_none none]

end Sys2Proof.Machine
end
